-- ==== Sys2Proof/Word.lean ====
section
/-! DEFINITION. The widths of the machine (00_scope.md R1, R3, R4; 10_state.md R6) and the spec's readings of a bit vector as
a number (00_scope.md §5.2). -/

namespace Sys2Proof

/-- A register value, an address, an extended immediate, an instruction word: XLEN = ILEN = 32 (R1, R3, R4). -/
abbrev Word := BitVec 32

/-- The content of one memory address (10_state.md R16). -/
abbrev Byte := BitVec 8

/-- The number of a general register, a 5-bit field of an instruction (10_state.md R6, 30_encoding.md R37). -/
abbrev Reg := BitVec 5

/-- `to32 n`: the word whose unsigned reading is `n` modulo 2^32, for any integer `n` (00_scope.md §5.2). The readings
`u(v)` and `s(v)` of that section are `v.toNat` and `v.toInt`. -/
def to32 (n : Int) : Word := BitVec.ofInt 32 n

end Sys2Proof
end

