-- ==== Sys2Proof/Config.lean ====
section
/-! DEFINITION. The parameters of 00_scope.md R5 that a rule fixes and that the spec asks to keep as named constants. The
opcode values `OPC_*` stand in Decode.lean, beside the decoder that uses them. The parameters left open (`MEM`, `CODE`,
`INIT_MEM`, `INIT_X`, `RESET_PC`, `END_PC`, and the corner values of `DIVCFG`) are plain data: fields of the state and
arguments of `State.launch`. -/

namespace Sys2Proof

/-- The byte orders R5's parameter `ENDIAN` could take. -/
inductive Endian where
  /-- Bits 7:0 at the lowest address. -/
  | little
  /-- Bits 7:0 at the highest address. -/
  | big
  deriving DecidableEq, Repr

/-- `ENDIAN`: little, for data and for fetch (20_memory.md R21, D4). -/
def Config.endian : Endian := .little

/-- `X0_ZERO`: register x0 reads as zero and discards writes (10_state.md R7, D3). -/
def Config.x0Zero : Bool := true

/-- `MISALIGNED_DATA`: a misaligned LH, LHU, LW, SH or SW faults (20_memory.md R25, D5). -/
def Config.misalignedDataFaults : Bool := true

/-- `IALIGN` in bytes: an instruction address is a multiple of 4 (00_scope.md R3, D6). -/
def Config.ialignBytes : Nat := 4

/-- The record `DIVCFG` of 41_arithmetic.md R59 (D7): the results of the four divisions for every pair of operands. -/
structure DivCfg where
  /-- The quotient DIV writes, from dividend and divisor. -/
  div  : Word → Word → Word
  /-- The quotient DIVU writes. -/
  divu : Word → Word → Word
  /-- The remainder REM writes. -/
  rem  : Word → Word → Word
  /-- The remainder REMU writes. -/
  remu : Word → Word → Word

/-- The ordinary law that constrains every `DIVCFG` (R59, first table; D7): where the divisor is not zero and the signed
quotient does not overflow, quotient and remainder are those of division rounding toward zero. -/
def DivCfg.Ordinary (c : DivCfg) : Prop :=
  (∀ a b : Word, b ≠ 0#32 → ¬(a = 0x80000000#32 ∧ b = 0xFFFFFFFF#32) →
    c.div a b = to32 (a.toInt.tdiv b.toInt) ∧
    c.rem a b = to32 (a.toInt - b.toInt * a.toInt.tdiv b.toInt)) ∧
  (∀ a b : Word, b ≠ 0#32 →
    c.divu a b = to32 (a.toNat / b.toNat : Nat) ∧
    c.remu a b = to32 ((a.toNat : Int) - (b.toNat : Int) * ((a.toNat / b.toNat : Nat) : Int)))

end Sys2Proof
end

