-- ==== Sys2Proof/Syntax.lean ====
section
/-! DEFINITION. The 45 instructions of the machine (00_scope.md R2), one constructor for each row of spec/opcode_table.json,
in the table's order. The operands are the fields of the encoding (30_encoding.md R38 to R44); the offset of a branch has
13 bits and that of a jump 21, their bit 0 (which no instruction bit carries) included. -/

namespace Sys2Proof

inductive Instr where
  /-- `lui rd, imm` (R55). -/
  | lui (rd : Reg) (imm : BitVec 20)
  /-- `auipc rd, imm` (R56). -/
  | auipc (rd : Reg) (imm : BitVec 20)
  /-- `add rd, rs1, rs2` (R60). -/
  | add (rd rs1 rs2 : Reg)
  /-- `addi rd, rs1, immediate` (R61). -/
  | addi (rd rs1 : Reg) (imm : BitVec 12)
  /-- `sub rd, rs1, rs2` (R62). -/
  | sub (rd rs1 rs2 : Reg)
  /-- `mul rd, rs1, rs2` (R63). -/
  | mul (rd rs1 rs2 : Reg)
  /-- `mulh rd, rs1, rs2` (R64). -/
  | mulh (rd rs1 rs2 : Reg)
  /-- `mulhsu rd, rs1, rs2` (R65). -/
  | mulhsu (rd rs1 rs2 : Reg)
  /-- `mulhu rd, rs1, rs2` (R66). -/
  | mulhu (rd rs1 rs2 : Reg)
  /-- `div rd, rs1, rs2` (R67). -/
  | div (rd rs1 rs2 : Reg)
  /-- `divu rd, rs1, rs2` (R68). -/
  | divu (rd rs1 rs2 : Reg)
  /-- `rem rd, rs1, rs2` (R69). -/
  | rem (rd rs1 rs2 : Reg)
  /-- `remu rd, rs1, rs2` (R70). -/
  | remu (rd rs1 rs2 : Reg)
  /-- `xor rd, rs1, rs2` (R71). -/
  | xor (rd rs1 rs2 : Reg)
  /-- `xori rd, rs1, immediate` (R72). -/
  | xori (rd rs1 : Reg) (imm : BitVec 12)
  /-- `or rd, rs1, rs2` (R73). -/
  | or (rd rs1 rs2 : Reg)
  /-- `ori rd, rs1, immediate` (R74). -/
  | ori (rd rs1 : Reg) (imm : BitVec 12)
  /-- `and rd, rs1, rs2` (R75). -/
  | and (rd rs1 rs2 : Reg)
  /-- `andi rd, rs1, immediate` (R76). -/
  | andi (rd rs1 : Reg) (imm : BitVec 12)
  /-- `sll rd, rs1, rs2` (R78). -/
  | sll (rd rs1 rs2 : Reg)
  /-- `slli rd, rs1, shamt` (R79). -/
  | slli (rd rs1 : Reg) (shamt : BitVec 5)
  /-- `srl rd, rs1, rs2` (R80). -/
  | srl (rd rs1 rs2 : Reg)
  /-- `srli rd, rs1, shamt` (R81). -/
  | srli (rd rs1 : Reg) (shamt : BitVec 5)
  /-- `sra rd, rs1, rs2` (R82). -/
  | sra (rd rs1 rs2 : Reg)
  /-- `srai rd, rs1, shamt` (R83). -/
  | srai (rd rs1 : Reg) (shamt : BitVec 5)
  /-- `slt rd, rs1, rs2` (R84). -/
  | slt (rd rs1 rs2 : Reg)
  /-- `slti rd, rs1, immediate` (R85). -/
  | slti (rd rs1 : Reg) (imm : BitVec 12)
  /-- `sltiu rd, rs1, immediate` (R86). -/
  | sltiu (rd rs1 : Reg) (imm : BitVec 12)
  /-- `sltu rd, rs1, rs2` (R87). -/
  | sltu (rd rs1 rs2 : Reg)
  /-- `jal rd, offset` (R89). -/
  | jal (rd : Reg) (offset : BitVec 21)
  /-- `jalr rd, offset(rs1)` (R90). -/
  | jalr (rd rs1 : Reg) (offset : BitVec 12)
  /-- `beq rs1, rs2, offset` (R92). -/
  | beq (rs1 rs2 : Reg) (offset : BitVec 13)
  /-- `bne rs1, rs2, offset` (R93). -/
  | bne (rs1 rs2 : Reg) (offset : BitVec 13)
  /-- `blt rs1, rs2, offset` (R94). -/
  | blt (rs1 rs2 : Reg) (offset : BitVec 13)
  /-- `bge rs1, rs2, offset` (R95). -/
  | bge (rs1 rs2 : Reg) (offset : BitVec 13)
  /-- `bltu rs1, rs2, offset` (R96). -/
  | bltu (rs1 rs2 : Reg) (offset : BitVec 13)
  /-- `bgeu rs1, rs2, offset` (R97). -/
  | bgeu (rs1 rs2 : Reg) (offset : BitVec 13)
  /-- `lb rd, offset(rs1)` (R99). -/
  | lb (rd rs1 : Reg) (offset : BitVec 12)
  /-- `lh rd, offset(rs1)` (R100). -/
  | lh (rd rs1 : Reg) (offset : BitVec 12)
  /-- `lbu rd, offset(rs1)` (R101). -/
  | lbu (rd rs1 : Reg) (offset : BitVec 12)
  /-- `lhu rd, offset(rs1)` (R102). -/
  | lhu (rd rs1 : Reg) (offset : BitVec 12)
  /-- `lw rd, offset(rs1)` (R103). -/
  | lw (rd rs1 : Reg) (offset : BitVec 12)
  /-- `sb rs2, offset(rs1)` (R105). -/
  | sb (rs2 rs1 : Reg) (offset : BitVec 12)
  /-- `sh rs2, offset(rs1)` (R106). -/
  | sh (rs2 rs1 : Reg) (offset : BitVec 12)
  /-- `sw rs2, offset(rs1)` (R107). -/
  | sw (rs2 rs1 : Reg) (offset : BitVec 12)
  deriving DecidableEq, Repr

/-- The mnemonic of an instruction, as spec/opcode_table.json spells it. -/
def Instr.mnemonic : Instr → String
  | .lui _ _ => "LUI"
  | .auipc _ _ => "AUIPC"
  | .add _ _ _ => "ADD"
  | .addi _ _ _ => "ADDI"
  | .sub _ _ _ => "SUB"
  | .mul _ _ _ => "MUL"
  | .mulh _ _ _ => "MULH"
  | .mulhsu _ _ _ => "MULHSU"
  | .mulhu _ _ _ => "MULHU"
  | .div _ _ _ => "DIV"
  | .divu _ _ _ => "DIVU"
  | .rem _ _ _ => "REM"
  | .remu _ _ _ => "REMU"
  | .xor _ _ _ => "XOR"
  | .xori _ _ _ => "XORI"
  | .or _ _ _ => "OR"
  | .ori _ _ _ => "ORI"
  | .and _ _ _ => "AND"
  | .andi _ _ _ => "ANDI"
  | .sll _ _ _ => "SLL"
  | .slli _ _ _ => "SLLI"
  | .srl _ _ _ => "SRL"
  | .srli _ _ _ => "SRLI"
  | .sra _ _ _ => "SRA"
  | .srai _ _ _ => "SRAI"
  | .slt _ _ _ => "SLT"
  | .slti _ _ _ => "SLTI"
  | .sltiu _ _ _ => "SLTIU"
  | .sltu _ _ _ => "SLTU"
  | .jal _ _ => "JAL"
  | .jalr _ _ _ => "JALR"
  | .beq _ _ _ => "BEQ"
  | .bne _ _ _ => "BNE"
  | .blt _ _ _ => "BLT"
  | .bge _ _ _ => "BGE"
  | .bltu _ _ _ => "BLTU"
  | .bgeu _ _ _ => "BGEU"
  | .lb _ _ _ => "LB"
  | .lh _ _ _ => "LH"
  | .lbu _ _ _ => "LBU"
  | .lhu _ _ _ => "LHU"
  | .lw _ _ _ => "LW"
  | .sb _ _ _ => "SB"
  | .sh _ _ _ => "SH"
  | .sw _ _ _ => "SW"

end Sys2Proof
end

