-- ==== Sys2Proof/WellFormed.lean ====
section
/-! DEFINITION. Which terms of `Instr` an instruction word can encode (30_encoding.md R42, R44, R53). Every value of a
register number, a 12-bit or 20-bit immediate and a shift amount is legal (R46); the one condition left is that a branch
or jump offset is even, since no instruction bit carries its bit 0. -/

namespace Sys2Proof

/-- A branch offset is even (R42, R53; D24). -/
def branchOffsetOk (offset : BitVec 13) : Bool := !offset.getLsbD 0

/-- A jump offset is even (R44, R53; D24). -/
def jumpOffsetOk (offset : BitVec 21) : Bool := !offset.getLsbD 0

/-- The instruction is one that a word can encode. -/
def Instr.wellFormed : Instr → Bool
  | .jal _ offset => jumpOffsetOk offset
  | .beq _ _ offset => branchOffsetOk offset
  | .bne _ _ offset => branchOffsetOk offset
  | .blt _ _ offset => branchOffsetOk offset
  | .bge _ _ offset => branchOffsetOk offset
  | .bltu _ _ offset => branchOffsetOk offset
  | .bgeu _ _ offset => branchOffsetOk offset
  | .lui _ _ => true
  | .auipc _ _ => true
  | .add _ _ _ => true
  | .addi _ _ _ => true
  | .sub _ _ _ => true
  | .mul _ _ _ => true
  | .mulh _ _ _ => true
  | .mulhsu _ _ _ => true
  | .mulhu _ _ _ => true
  | .div _ _ _ => true
  | .divu _ _ _ => true
  | .rem _ _ _ => true
  | .remu _ _ _ => true
  | .xor _ _ _ => true
  | .xori _ _ _ => true
  | .or _ _ _ => true
  | .ori _ _ _ => true
  | .and _ _ _ => true
  | .andi _ _ _ => true
  | .sll _ _ _ => true
  | .slli _ _ _ => true
  | .srl _ _ _ => true
  | .srli _ _ _ => true
  | .sra _ _ _ => true
  | .srai _ _ _ => true
  | .slt _ _ _ => true
  | .slti _ _ _ => true
  | .sltiu _ _ _ => true
  | .sltu _ _ _ => true
  | .jalr _ _ _ => true
  | .lb _ _ _ => true
  | .lh _ _ _ => true
  | .lbu _ _ _ => true
  | .lhu _ _ _ => true
  | .lw _ _ _ => true
  | .sb _ _ _ => true
  | .sh _ _ _ => true
  | .sw _ _ _ => true

end Sys2Proof
end

