-- ==== Sys2Proof/Decode.lean ====
section
/-! DEFINITION. The bytes of a word in memory, the decoder and the encoder (30_encoding.md), and the opcode table as data. -/

namespace Sys2Proof

/-! ## Byte order (20_memory.md R21) -/

/-- Bytes listed from the least significant to the most significant, put in the order of rising addresses, or back. -/
def storageOrder (bytes : List Byte) : List Byte :=
  match Config.endian with
  | .little => bytes
  | .big => bytes.reverse

/-- The number whose bytes are listed least significant first. -/
def littleEndianValue : List Byte → Nat
  | [] => 0
  | b :: rest => b.toNat + 256 * littleEndianValue rest

/-- The value of the bytes that lie at rising addresses, lowest address first (R21, R22, R24). -/
def valueOfBytes (n : Nat) (bytes : List Byte) : BitVec (8 * n) :=
  BitVec.ofNat (8 * n) (littleEndianValue (storageOrder bytes))

/-- The bytes in which an n-byte value lies at rising addresses, lowest address first (R21, R23). -/
def bytesOfValue (n : Nat) (v : BitVec (8 * n)) : List Byte :=
  storageOrder ((List.range n).map fun i => v.extractLsb' (8 * i) 8)

/-! ## The fields of an instruction word (R37 to R44) -/

/-- `inst[6:0]`. -/
def opcodeOf (w : Word) : BitVec 7 := w.extractLsb' 0 7

/-- `inst[11:7]`, the destination register. -/
def rdOf (w : Word) : Reg := w.extractLsb' 7 5

/-- `inst[14:12]`. -/
def funct3Of (w : Word) : BitVec 3 := w.extractLsb' 12 3

/-- `inst[19:15]`, the first source register. -/
def rs1Of (w : Word) : Reg := w.extractLsb' 15 5

/-- `inst[24:20]`, the second source register. -/
def rs2Of (w : Word) : Reg := w.extractLsb' 20 5

/-- `inst[24:20]` in the I-shift format (R40). -/
def shamtOf (w : Word) : BitVec 5 := w.extractLsb' 20 5

/-- `inst[31:25]`. -/
def funct7Of (w : Word) : BitVec 7 := w.extractLsb' 25 7

/-- The I-format immediate `inst[31:20]` (R39). -/
def immIOf (w : Word) : BitVec 12 := w.extractLsb' 20 12

/-- The S-format immediate `inst[31:25] ++ inst[11:7]` (R41). -/
def immSOf (w : Word) : BitVec 12 := w.extractLsb' 25 7 ++ w.extractLsb' 7 5

/-- The B-format offset `inst[31] ++ inst[7] ++ inst[30:25] ++ inst[11:8] ++ 0` (R42). -/
def immBOf (w : Word) : BitVec 13 :=
  w.extractLsb' 31 1 ++ w.extractLsb' 7 1 ++ w.extractLsb' 25 6 ++ w.extractLsb' 8 4 ++ 0#1

/-- The U-format field `inst[31:12]` (R43). -/
def immUOf (w : Word) : BitVec 20 := w.extractLsb' 12 20

/-- The J-format offset `inst[31] ++ inst[19:12] ++ inst[20] ++ inst[30:21] ++ 0` (R44). -/
def immJOf (w : Word) : BitVec 21 :=
  w.extractLsb' 31 1 ++ w.extractLsb' 12 8 ++ w.extractLsb' 20 1 ++ w.extractLsb' 21 10 ++ 0#1

/-! ## The opcodes (R45)

LUI, AUIPC, JAL and JALR are literal in the source; the other five values are the spec's (D2), named here so that decoder
and encoder depend on them in one place. -/

/-- LUI. -/
def OPC_LUI : BitVec 7 := 0b0110111#7
/-- AUIPC. -/
def OPC_AUIPC : BitVec 7 := 0b0010111#7
/-- JAL. -/
def OPC_JAL : BitVec 7 := 0b1101111#7
/-- JALR. -/
def OPC_JALR : BitVec 7 := 0b1100111#7
/-- OP, the 18 instructions of format R. -/
def OPC_OP : BitVec 7 := 0b0110011#7
/-- OP-IMM, the six immediate instructions and the three shifts by a constant. -/
def OPC_OP_IMM : BitVec 7 := 0b0010011#7
/-- BRANCH. -/
def OPC_BRANCH : BitVec 7 := 0b1100011#7
/-- LOAD. -/
def OPC_LOAD : BitVec 7 := 0b0000011#7
/-- STORE. -/
def OPC_STORE : BitVec 7 := 0b0100011#7

/-! ## The decoder (R46, R47) -/

/-- The classes of words that are no instruction, in the order of R47's list. The machine raises IllegalInstruction for each
alike; the name only says why. -/
inductive IllegalClass where
  /-- `inst[6:0]` is none of the nine opcodes of R45 (so also FENCE, ECALL, EBREAK and the CSR instructions). -/
  | unknownOpcode
  /-- Opcode OP with a (funct7, funct3) that is not among the 18 pairs. -/
  | reservedOp
  /-- Opcode OP-IMM, funct3 001 or 101, with other bits 31:25 than the shifts fix (R48). -/
  | reservedShift
  /-- Opcode 1100111 with funct3 other than 000. -/
  | reservedJalr
  /-- Opcode BRANCH with funct3 010 or 011. -/
  | reservedBranch
  /-- Opcode LOAD with funct3 011, 110 or 111. -/
  | reservedLoad
  /-- Opcode STORE with funct3 011 to 111. -/
  | reservedStore
  deriving DecidableEq, Repr

/-- Opcode OP, funct7 0000000 (R38, R45). -/
def decodeOpBase (rd rs1 rs2 : Reg) (f3 : BitVec 3) : Except IllegalClass Instr :=
  match f3 with
  | 0b000#3 => .ok (.add rd rs1 rs2)
  | 0b001#3 => .ok (.sll rd rs1 rs2)
  | 0b010#3 => .ok (.slt rd rs1 rs2)
  | 0b011#3 => .ok (.sltu rd rs1 rs2)
  | 0b100#3 => .ok (.xor rd rs1 rs2)
  | 0b101#3 => .ok (.srl rd rs1 rs2)
  | 0b110#3 => .ok (.or rd rs1 rs2)
  | 0b111#3 => .ok (.and rd rs1 rs2)

/-- Opcode OP, funct7 0100000 (R38, R45). -/
def decodeOpAlternate (rd rs1 rs2 : Reg) (f3 : BitVec 3) : Except IllegalClass Instr :=
  match f3 with
  | 0b000#3 => .ok (.sub rd rs1 rs2)
  | 0b101#3 => .ok (.sra rd rs1 rs2)
  | _ => .error .reservedOp

/-- Opcode OP, funct7 0000001 (R38, R45). -/
def decodeOpMulDiv (rd rs1 rs2 : Reg) (f3 : BitVec 3) : Except IllegalClass Instr :=
  match f3 with
  | 0b000#3 => .ok (.mul rd rs1 rs2)
  | 0b001#3 => .ok (.mulh rd rs1 rs2)
  | 0b010#3 => .ok (.mulhsu rd rs1 rs2)
  | 0b011#3 => .ok (.mulhu rd rs1 rs2)
  | 0b100#3 => .ok (.div rd rs1 rs2)
  | 0b101#3 => .ok (.divu rd rs1 rs2)
  | 0b110#3 => .ok (.rem rd rs1 rs2)
  | 0b111#3 => .ok (.remu rd rs1 rs2)

/-- Opcode OP (R38, R45, R47). -/
def decodeOp (w : Word) : Except IllegalClass Instr :=
  if funct7Of w = 0b0000000#7 then decodeOpBase (rdOf w) (rs1Of w) (rs2Of w) (funct3Of w)
  else if funct7Of w = 0b0100000#7 then decodeOpAlternate (rdOf w) (rs1Of w) (rs2Of w) (funct3Of w)
  else if funct7Of w = 0b0000001#7 then decodeOpMulDiv (rdOf w) (rs1Of w) (rs2Of w) (funct3Of w)
  else .error .reservedOp

/-- Opcode OP-IMM (R39, R40, R45, R48). -/
def decodeOpImm (w : Word) : Except IllegalClass Instr :=
  match funct3Of w with
  | 0b000#3 => .ok (.addi (rdOf w) (rs1Of w) (immIOf w))
  | 0b010#3 => .ok (.slti (rdOf w) (rs1Of w) (immIOf w))
  | 0b011#3 => .ok (.sltiu (rdOf w) (rs1Of w) (immIOf w))
  | 0b100#3 => .ok (.xori (rdOf w) (rs1Of w) (immIOf w))
  | 0b110#3 => .ok (.ori (rdOf w) (rs1Of w) (immIOf w))
  | 0b111#3 => .ok (.andi (rdOf w) (rs1Of w) (immIOf w))
  | 0b001#3 =>
    if funct7Of w = 0b0000000#7 then .ok (.slli (rdOf w) (rs1Of w) (shamtOf w))
    else .error .reservedShift
  | 0b101#3 =>
    if funct7Of w = 0b0000000#7 then .ok (.srli (rdOf w) (rs1Of w) (shamtOf w))
    else if funct7Of w = 0b0100000#7 then .ok (.srai (rdOf w) (rs1Of w) (shamtOf w))
    else .error .reservedShift

/-- Opcode JALR (R39, R47). -/
def decodeJalr (w : Word) : Except IllegalClass Instr :=
  match funct3Of w with
  | 0b000#3 => .ok (.jalr (rdOf w) (rs1Of w) (immIOf w))
  | _ => .error .reservedJalr

/-- Opcode BRANCH (R42, R45, R47). -/
def decodeBranch (w : Word) : Except IllegalClass Instr :=
  match funct3Of w with
  | 0b000#3 => .ok (.beq (rs1Of w) (rs2Of w) (immBOf w))
  | 0b001#3 => .ok (.bne (rs1Of w) (rs2Of w) (immBOf w))
  | 0b100#3 => .ok (.blt (rs1Of w) (rs2Of w) (immBOf w))
  | 0b101#3 => .ok (.bge (rs1Of w) (rs2Of w) (immBOf w))
  | 0b110#3 => .ok (.bltu (rs1Of w) (rs2Of w) (immBOf w))
  | 0b111#3 => .ok (.bgeu (rs1Of w) (rs2Of w) (immBOf w))
  | _ => .error .reservedBranch

/-- Opcode LOAD (R39, R45, R47). -/
def decodeLoad (w : Word) : Except IllegalClass Instr :=
  match funct3Of w with
  | 0b000#3 => .ok (.lb (rdOf w) (rs1Of w) (immIOf w))
  | 0b001#3 => .ok (.lh (rdOf w) (rs1Of w) (immIOf w))
  | 0b010#3 => .ok (.lw (rdOf w) (rs1Of w) (immIOf w))
  | 0b100#3 => .ok (.lbu (rdOf w) (rs1Of w) (immIOf w))
  | 0b101#3 => .ok (.lhu (rdOf w) (rs1Of w) (immIOf w))
  | _ => .error .reservedLoad

/-- Opcode STORE (R41, R45, R47). -/
def decodeStore (w : Word) : Except IllegalClass Instr :=
  match funct3Of w with
  | 0b000#3 => .ok (.sb (rs2Of w) (rs1Of w) (immSOf w))
  | 0b001#3 => .ok (.sh (rs2Of w) (rs1Of w) (immSOf w))
  | 0b010#3 => .ok (.sw (rs2Of w) (rs1Of w) (immSOf w))
  | _ => .error .reservedStore

/-- `Decode(inst)`: the instruction a word stands for, or the class of illegal words it belongs to (R46, R47). Nothing but
the 32 bits of the word decides. -/
def decodeWord (w : Word) : Except IllegalClass Instr :=
  if opcodeOf w = OPC_LUI then .ok (.lui (rdOf w) (immUOf w))
  else if opcodeOf w = OPC_AUIPC then .ok (.auipc (rdOf w) (immUOf w))
  else if opcodeOf w = OPC_JAL then .ok (.jal (rdOf w) (immJOf w))
  else if opcodeOf w = OPC_JALR then decodeJalr w
  else if opcodeOf w = OPC_OP then decodeOp w
  else if opcodeOf w = OPC_OP_IMM then decodeOpImm w
  else if opcodeOf w = OPC_BRANCH then decodeBranch w
  else if opcodeOf w = OPC_LOAD then decodeLoad w
  else if opcodeOf w = OPC_STORE then decodeStore w
  else .error .unknownOpcode

/-- Why bytes hold no instruction at their start. -/
inductive DecodeRefusal where
  /-- Fewer than the four bytes of an instruction (00_scope.md R3). -/
  | truncated
  /-- The first four bytes are a word that is no instruction (R47). -/
  | illegal (why : IllegalClass) (word : Word)
  deriving DecidableEq, Repr

/-- The instruction at the start of a list of bytes, lowest address first, and the bytes after it (R37, R46). -/
def decode : List Byte → Except DecodeRefusal (Instr × List Byte)
  | b0 :: b1 :: b2 :: b3 :: rest =>
    match decodeWord (valueOfBytes 4 [b0, b1, b2, b3]) with
    | .ok i => .ok (i, rest)
    | .error why => .error (.illegal why (valueOfBytes 4 [b0, b1, b2, b3]))
  | _ => .error .truncated

/-! ## The encoder (R38 to R44) -/

/-- Format R and, with the shift amount in the place of rs2, format I-shift (R38, R40). -/
def encodeR (f7 : BitVec 7) (rs2 rs1 : BitVec 5) (f3 : BitVec 3) (rd : Reg) (op : BitVec 7) : Word :=
  f7 ++ rs2 ++ rs1 ++ f3 ++ rd ++ op

/-- Format I (R39). -/
def encodeI (imm : BitVec 12) (rs1 : Reg) (f3 : BitVec 3) (rd : Reg) (op : BitVec 7) : Word :=
  imm ++ rs1 ++ f3 ++ rd ++ op

/-- Format S (R41). -/
def encodeS (imm : BitVec 12) (rs2 rs1 : Reg) (f3 : BitVec 3) (op : BitVec 7) : Word :=
  imm.extractLsb' 5 7 ++ rs2 ++ rs1 ++ f3 ++ imm.extractLsb' 0 5 ++ op

/-- Format B: offset[12], offset[10:5], rs2, rs1, funct3, offset[4:1], offset[11] (R42). -/
def encodeB (offset : BitVec 13) (rs2 rs1 : Reg) (f3 : BitVec 3) (op : BitVec 7) : Word :=
  offset.extractLsb' 12 1 ++ offset.extractLsb' 5 6 ++ rs2 ++ rs1 ++ f3 ++
    offset.extractLsb' 1 4 ++ offset.extractLsb' 11 1 ++ op

/-- Format U (R43). -/
def encodeU (imm : BitVec 20) (rd : Reg) (op : BitVec 7) : Word := imm ++ rd ++ op

/-- Format J: offset[20], offset[10:1], offset[11], offset[19:12], rd (R44). -/
def encodeJ (offset : BitVec 21) (rd : Reg) (op : BitVec 7) : Word :=
  offset.extractLsb' 20 1 ++ offset.extractLsb' 1 10 ++ offset.extractLsb' 11 1 ++
    offset.extractLsb' 12 8 ++ rd ++ op

/-- The word of a well-formed instruction, from the encoding tables (R38 to R45). -/
def encode : Instr → Word
  | .lui rd imm => encodeU imm rd OPC_LUI
  | .auipc rd imm => encodeU imm rd OPC_AUIPC
  | .add rd rs1 rs2 => encodeR 0b0000000#7 rs2 rs1 0b000#3 rd OPC_OP
  | .addi rd rs1 imm => encodeI imm rs1 0b000#3 rd OPC_OP_IMM
  | .sub rd rs1 rs2 => encodeR 0b0100000#7 rs2 rs1 0b000#3 rd OPC_OP
  | .mul rd rs1 rs2 => encodeR 0b0000001#7 rs2 rs1 0b000#3 rd OPC_OP
  | .mulh rd rs1 rs2 => encodeR 0b0000001#7 rs2 rs1 0b001#3 rd OPC_OP
  | .mulhsu rd rs1 rs2 => encodeR 0b0000001#7 rs2 rs1 0b010#3 rd OPC_OP
  | .mulhu rd rs1 rs2 => encodeR 0b0000001#7 rs2 rs1 0b011#3 rd OPC_OP
  | .div rd rs1 rs2 => encodeR 0b0000001#7 rs2 rs1 0b100#3 rd OPC_OP
  | .divu rd rs1 rs2 => encodeR 0b0000001#7 rs2 rs1 0b101#3 rd OPC_OP
  | .rem rd rs1 rs2 => encodeR 0b0000001#7 rs2 rs1 0b110#3 rd OPC_OP
  | .remu rd rs1 rs2 => encodeR 0b0000001#7 rs2 rs1 0b111#3 rd OPC_OP
  | .xor rd rs1 rs2 => encodeR 0b0000000#7 rs2 rs1 0b100#3 rd OPC_OP
  | .xori rd rs1 imm => encodeI imm rs1 0b100#3 rd OPC_OP_IMM
  | .or rd rs1 rs2 => encodeR 0b0000000#7 rs2 rs1 0b110#3 rd OPC_OP
  | .ori rd rs1 imm => encodeI imm rs1 0b110#3 rd OPC_OP_IMM
  | .and rd rs1 rs2 => encodeR 0b0000000#7 rs2 rs1 0b111#3 rd OPC_OP
  | .andi rd rs1 imm => encodeI imm rs1 0b111#3 rd OPC_OP_IMM
  | .sll rd rs1 rs2 => encodeR 0b0000000#7 rs2 rs1 0b001#3 rd OPC_OP
  | .slli rd rs1 shamt => encodeR 0b0000000#7 shamt rs1 0b001#3 rd OPC_OP_IMM
  | .srl rd rs1 rs2 => encodeR 0b0000000#7 rs2 rs1 0b101#3 rd OPC_OP
  | .srli rd rs1 shamt => encodeR 0b0000000#7 shamt rs1 0b101#3 rd OPC_OP_IMM
  | .sra rd rs1 rs2 => encodeR 0b0100000#7 rs2 rs1 0b101#3 rd OPC_OP
  | .srai rd rs1 shamt => encodeR 0b0100000#7 shamt rs1 0b101#3 rd OPC_OP_IMM
  | .slt rd rs1 rs2 => encodeR 0b0000000#7 rs2 rs1 0b010#3 rd OPC_OP
  | .slti rd rs1 imm => encodeI imm rs1 0b010#3 rd OPC_OP_IMM
  | .sltiu rd rs1 imm => encodeI imm rs1 0b011#3 rd OPC_OP_IMM
  | .sltu rd rs1 rs2 => encodeR 0b0000000#7 rs2 rs1 0b011#3 rd OPC_OP
  | .jal rd offset => encodeJ offset rd OPC_JAL
  | .jalr rd rs1 offset => encodeI offset rs1 0b000#3 rd OPC_JALR
  | .beq rs1 rs2 offset => encodeB offset rs2 rs1 0b000#3 OPC_BRANCH
  | .bne rs1 rs2 offset => encodeB offset rs2 rs1 0b001#3 OPC_BRANCH
  | .blt rs1 rs2 offset => encodeB offset rs2 rs1 0b100#3 OPC_BRANCH
  | .bge rs1 rs2 offset => encodeB offset rs2 rs1 0b101#3 OPC_BRANCH
  | .bltu rs1 rs2 offset => encodeB offset rs2 rs1 0b110#3 OPC_BRANCH
  | .bgeu rs1 rs2 offset => encodeB offset rs2 rs1 0b111#3 OPC_BRANCH
  | .lb rd rs1 offset => encodeI offset rs1 0b000#3 rd OPC_LOAD
  | .lh rd rs1 offset => encodeI offset rs1 0b001#3 rd OPC_LOAD
  | .lbu rd rs1 offset => encodeI offset rs1 0b100#3 rd OPC_LOAD
  | .lhu rd rs1 offset => encodeI offset rs1 0b101#3 rd OPC_LOAD
  | .lw rd rs1 offset => encodeI offset rs1 0b010#3 rd OPC_LOAD
  | .sb rs2 rs1 offset => encodeS offset rs2 rs1 0b000#3 OPC_STORE
  | .sh rs2 rs1 offset => encodeS offset rs2 rs1 0b001#3 OPC_STORE
  | .sw rs2 rs1 offset => encodeS offset rs2 rs1 0b010#3 OPC_STORE

/-- The four bytes of an instruction in memory, lowest address first (R37, 20_memory.md R21). -/
def encodeBytes (i : Instr) : List Byte := bytesOfValue 4 (encode i)

/-! ## The opcode table as data (R45) -/

/-- One row of the opcode table: a word is the row's instruction exactly when `word &&& mask = pattern` (R46). -/
structure OpcodeRow where
  /-- The row's mnemonic. -/
  mnemonic : String
  /-- The row's `match`: the fixed bits at their places. -/
  pattern : Word
  /-- The row's `mask`: ones at the fixed bits. -/
  mask : Word
  deriving DecidableEq, Repr

/-- The rows of the section load constant. -/
def loadConstantRows : List OpcodeRow :=
  [⟨"LUI", 0x00000037, 0x0000007F⟩,
   ⟨"AUIPC", 0x00000017, 0x0000007F⟩]

/-- The rows of the section arithmetic. -/
def arithmeticRows : List OpcodeRow :=
  [⟨"ADD", 0x00000033, 0xFE00707F⟩,
   ⟨"ADDI", 0x00000013, 0x0000707F⟩,
   ⟨"SUB", 0x40000033, 0xFE00707F⟩,
   ⟨"MUL", 0x02000033, 0xFE00707F⟩,
   ⟨"MULH", 0x02001033, 0xFE00707F⟩,
   ⟨"MULHSU", 0x02002033, 0xFE00707F⟩,
   ⟨"MULHU", 0x02003033, 0xFE00707F⟩,
   ⟨"DIV", 0x02004033, 0xFE00707F⟩,
   ⟨"DIVU", 0x02005033, 0xFE00707F⟩,
   ⟨"REM", 0x02006033, 0xFE00707F⟩,
   ⟨"REMU", 0x02007033, 0xFE00707F⟩]

/-- The rows of the section Boolean logic. -/
def booleanRows : List OpcodeRow :=
  [⟨"XOR", 0x00004033, 0xFE00707F⟩,
   ⟨"XORI", 0x00004013, 0x0000707F⟩,
   ⟨"OR", 0x00006033, 0xFE00707F⟩,
   ⟨"ORI", 0x00006013, 0x0000707F⟩,
   ⟨"AND", 0x00007033, 0xFE00707F⟩,
   ⟨"ANDI", 0x00007013, 0x0000707F⟩]

/-- The rows of the section shifts. -/
def shiftRows : List OpcodeRow :=
  [⟨"SLL", 0x00001033, 0xFE00707F⟩,
   ⟨"SLLI", 0x00001013, 0xFE00707F⟩,
   ⟨"SRL", 0x00005033, 0xFE00707F⟩,
   ⟨"SRLI", 0x00005013, 0xFE00707F⟩,
   ⟨"SRA", 0x40005033, 0xFE00707F⟩,
   ⟨"SRAI", 0x40005013, 0xFE00707F⟩]

/-- The rows of the section compare. -/
def compareRows : List OpcodeRow :=
  [⟨"SLT", 0x00002033, 0xFE00707F⟩,
   ⟨"SLTI", 0x00002013, 0x0000707F⟩,
   ⟨"SLTIU", 0x00003013, 0x0000707F⟩,
   ⟨"SLTU", 0x00003033, 0xFE00707F⟩]

/-- The rows of the section unconditional jumps. -/
def jumpRows : List OpcodeRow :=
  [⟨"JAL", 0x0000006F, 0x0000007F⟩,
   ⟨"JALR", 0x00000067, 0x0000707F⟩]

/-- The rows of the section conditional branches. -/
def branchRows : List OpcodeRow :=
  [⟨"BEQ", 0x00000063, 0x0000707F⟩,
   ⟨"BNE", 0x00001063, 0x0000707F⟩,
   ⟨"BLT", 0x00004063, 0x0000707F⟩,
   ⟨"BGE", 0x00005063, 0x0000707F⟩,
   ⟨"BLTU", 0x00006063, 0x0000707F⟩,
   ⟨"BGEU", 0x00007063, 0x0000707F⟩]

/-- The rows of the section loads. -/
def loadRows : List OpcodeRow :=
  [⟨"LB", 0x00000003, 0x0000707F⟩,
   ⟨"LH", 0x00001003, 0x0000707F⟩,
   ⟨"LBU", 0x00004003, 0x0000707F⟩,
   ⟨"LHU", 0x00005003, 0x0000707F⟩,
   ⟨"LW", 0x00002003, 0x0000707F⟩]

/-- The rows of the section stores. -/
def storeRows : List OpcodeRow :=
  [⟨"SB", 0x00000023, 0x0000707F⟩,
   ⟨"SH", 0x00001023, 0x0000707F⟩,
   ⟨"SW", 0x00002023, 0x0000707F⟩]

/-- The 45 rows of spec/opcode_table.json (R45). -/
def opcodeTable : List OpcodeRow :=
  loadConstantRows ++ arithmeticRows ++ booleanRows ++ shiftRows ++ compareRows ++ jumpRows ++ branchRows ++ loadRows ++
    storeRows

/-- The word is one of the row's (R46). -/
def OpcodeRow.fits (row : OpcodeRow) (w : Word) : Bool := w &&& row.mask == row.pattern

/-! ## The host's question -/

/-- The instruction the decoder reads from an instruction whose bits are `w`, bit 0 the least significant bit of the word,
every bit from `nbits` on zero: the four bytes as memory holds them are given to `decode`. -/
def decodeTableWord (nbits w : Nat) : Option Instr :=
  match decode (bytesOfValue 4 (BitVec.ofNat 32 (w % 2 ^ nbits))) with
  | .ok (i, _) => some i
  | .error _ => none

end Sys2Proof
end

