-- ==== Sys2Proof/Machine/State.lean ====
section
/-! DEFINITION. The state of the machine as plain data (10_state.md), the ways a run stops (60_exceptions.md R108, R109), and
the state after reset (10_state.md R19, 70_reset_and_hazards.md R128). -/

namespace Sys2Proof.Machine

/-- The seven synchronous exceptions (60_exceptions.md R109), named as the spec names them; the spec identifies a cause by
its name and no rule reads its reference code (D22). -/
inductive Cause where
  /-- JAL, JALR or a taken branch whose target is not a multiple of 4 (R111). -/
  | instructionAddressMisaligned
  /-- A fetch that touches a byte outside `CODE` (R112). -/
  | instructionAccessFault
  /-- A fetched word that is no instruction (R110). -/
  | illegalInstruction
  /-- LH, LHU or LW at an address that is not a multiple of the access size (R113). -/
  | loadAddressMisaligned
  /-- A load that touches a byte outside `MEM` (R114). -/
  | loadAccessFault
  /-- SH or SW at an address that is not a multiple of the access size (R113). -/
  | storeAddressMisaligned
  /-- A store that touches a byte outside `MEM` (R114). -/
  | storeAccessFault
  deriving DecidableEq, Repr

/-- Why the spec's model declines to give a behaviour a meaning (R108). -/
inductive RefusedReason where
  /-- A store that touches a byte of `CODE` (20_memory.md R23, R34). -/
  | storeToCode
  deriving DecidableEq, Repr

/-- The spec's `outcome` (R108; the state table of 10_state.md). All but `running` are terminal. -/
inductive RunOutcome where
  /-- The next step may be taken. -/
  | running
  /-- The run is over normally (R130). -/
  | ended
  /-- `Faulted(cause, info, pc)`: an exception was raised by the instruction at `pc`. -/
  | faulted (cause : Cause) (info pc : Word)
  /-- `Refused(reason, pc)`. -/
  | refused (reason : RefusedReason) (pc : Word)
  deriving DecidableEq, Repr

/-- What the addresses of a region may be used for: loads and stores, or fetch and loads (20_memory.md R29, R34). -/
inductive RegionKind where
  /-- In `MEM` and not, by this region, in `CODE`. -/
  | data
  /-- In `MEM` and in `CODE`. -/
  | code
  deriving DecidableEq, Repr

/-- The addresses `base, base + 1, .., base + size - 1`. -/
structure Region where
  base : Nat
  size : Nat
  kind : RegionKind
  deriving DecidableEq, Repr

/-- The open corner values of `DIVCFG` (00_scope.md R5; 41_arithmetic.md R59, D7) as plain data: those that differ from the
default the spec gives, a result by zero listed by its dividend. Away from the corners R59 fixes the results. Every `DIVCFG`
is one of these, since there are finitely many dividends. -/
structure DivOverrides where
  /-- Quotients of DIV by zero, by dividend. -/
  divByZero : List (Word × Word)
  /-- Quotients of DIVU by zero. -/
  divuByZero : List (Word × Word)
  /-- Remainders of REM by zero. -/
  remByZero : List (Word × Word)
  /-- Remainders of REMU by zero. -/
  remuByZero : List (Word × Word)
  /-- The quotient of DIV in the signed overflow, -2^31 by -1. -/
  divOverflow : Option Word
  /-- The remainder of REM in the signed overflow. -/
  remOverflow : Option Word
  deriving DecidableEq, Repr

/-- No corner value differs: `DIVCFG` at the default of R59. -/
def DivOverrides.default : DivOverrides where
  divByZero := []
  divuByZero := []
  remByZero := []
  remuByZero := []
  divOverflow := none
  remOverflow := none

/-- The open parameters of R5 that the launch of a run fixes and no step changes: `MEM` and `CODE` as a list of regions
(`MEM` is all their addresses, `CODE` those of the code regions, so that `CODE` is a subset of `MEM` as R29 asks; any set of
addresses is such a list), `END_PC` (70_reset_and_hazards.md R130), and `DIVCFG`. -/
structure Env where
  regions : List Region
  endPc : Word
  divOverrides : DivOverrides
  deriving DecidableEq, Repr

/-- Memory `M` (10_state.md R16): the bytes that differ from `unlistedByte`, by address. -/
abbrev Memory := List Host.Cell

/-- What an address that is not listed holds. Only a convention of the representation: every content of the 2^32 addresses
is a list. DESIGN CHOICE as the content of memory at reset (notes/assumptions/5.md). -/
def unlistedByte : Byte := 0#8

/-- The canonical form of a memory: addresses of the address space (20_memory.md R20), strictly rising, none listed with the
byte an unlisted address holds, so that equal memories are equal lists. -/
abbrev Memory.wf (m : Memory) : Prop :=
  m.Pairwise (fun a b => a.1 < b.1) ∧ ∀ c ∈ m, c.1 < 2 ^ 32 ∧ c.2 ≠ unlistedByte

/-- The whole state (10_state.md; nothing else exists: R13, R14, R15, R17). -/
structure State where
  /-- The general registers x0 .. x31 (R6), by number; all access goes through `State.readReg` and `State.writeReg`. -/
  x : Vector Word 32
  /-- The address of the instruction being executed (R10). -/
  pc : Word
  /-- Memory (R16). -/
  mem : Memory
  /-- Running, or how the run stopped (60_exceptions.md R108). -/
  outcome : RunOutcome
  /-- The launch parameters `MEM`, `CODE`, `END_PC` and `DIVCFG` (00_scope.md R5). -/
  env : Env
  deriving DecidableEq, Repr

/-- The machine stops with a fault. Raised by `step` alone, never by the meaning of an instruction. -/
inductive Fault where
  /-- The run has stopped as `Faulted(cause, info, pc)` and a further step is asked for (R108: there is none). Raised by
  `step` at a state whose outcome says so. Safe: the state with that outcome was the answer of the step before. -/
  | exception (cause : Cause) (info pc : Word)
  deriving DecidableEq, Repr

/-- The machine declines to go on. Raised by `step` alone (but for `notModelled`). -/
inductive Refusal where
  /-- An instruction without a meaning; raised by an arm of `exec`, of which there is none left. Safe. -/
  | notModelled (mnemonic : String)
  /-- The run has stopped as `Refused(StoreToCode, pc)` and a further step is asked for (R34, R108: there is none). Raised by
  `step` at a state whose outcome says so. Safe: the spec gives what would follow no meaning. -/
  | storeToCode (pc : Word)
  deriving DecidableEq, Repr

/-- What an instruction or a step answers. -/
abbrev Result := Host.Outcome State Fault Refusal

/-- The state right after reset (R19, R128): x0 zero and the run not stopped, as the spec says; the rest is open in the spec
and fixed here by choice: x1 .. x31 zero, pc 0x1000, every byte of memory zero, all of the address space data memory, `CODE`
empty, `END_PC` 0xFFFFFFFC (DESIGN CHOICE, notes/assumptions/3.md to 7.md). `DIVCFG` has the default that R59 gives. -/
def State.reset : State where
  x := Vector.replicate 32 0#32
  pc := 0x00001000#32
  mem := []
  outcome := .running
  env :=
    { regions := [{ base := 0, size := 2 ^ 32, kind := .data }]
      endPc := 0xFFFFFFFC#32
      divOverrides := .default }

end Sys2Proof.Machine
end

