-- ==== Sys2Proof/Machine/Ops.lean ====
section
/-! DEFINITION. The named operations over registers, pc, memory and outcome that the meanings share, the raising of an
exception among them. -/

namespace Sys2Proof.Machine

/-! ## Registers and pc -/

/-- `x[r]`: x0 reads as zero (10_state.md R7, R9). -/
def State.readReg (s : State) (r : Reg) : Word :=
  if Config.x0Zero = true ∧ r = 0#5 then 0#32 else s.x[r.toNat]'r.isLt

/-- `x[r] <- v`: a write to x0 is discarded (R7, R9). -/
def State.writeReg (s : State) (r : Reg) (v : Word) : State :=
  if Config.x0Zero = true ∧ r = 0#5 then s else { s with x := s.x.set r.toNat v r.isLt }

/-- `pc <- target`. -/
def State.setPc (s : State) (target : Word) : State := { s with pc := target }

/-- `pc + 4`, the address of the instruction that follows in memory, modulo 2^32 (R10, R11). -/
def State.nextPc (s : State) : Word := s.pc + 4#32

/-- `pc <- pc + 4`, the end of an instruction that is no control transfer (R11). -/
def State.advance (s : State) : State := s.setPc s.nextPc

/-- `x[rd] <- v; pc <- pc + 4`, how every computing instruction and every load ends (R11). -/
def State.retire (s : State) (rd : Reg) (v : Word) : State := (s.writeReg rd v).advance

/-! ## Stopping the run (60_exceptions.md R108, R116, R118; 70_reset_and_hazards.md R130) -/

/-- `raise cause(info)`: the outcome becomes `Faulted(cause, info, pc)` with pc the address of the raising instruction.
Nothing else changes: there is no handler, nothing is saved and nothing returns (R108, R116, R118, R119). -/
def State.raise (s : State) (cause : Cause) (info : Word) : State :=
  { s with outcome := .faulted cause info s.pc }

/-- The outcome becomes `Refused(reason, pc)`; nothing else changes (R108, R116). -/
def State.refuse (s : State) (reason : RefusedReason) : State :=
  { s with outcome := .refused reason s.pc }

/-- The outcome becomes `Ended`; the final state is the current one (R130). -/
def State.finish (s : State) : State := { s with outcome := .ended }

/-! ## The address map (20_memory.md R29) -/

/-- The region has the address. -/
def Region.contains (r : Region) (a : Nat) : Bool := decide (r.base ≤ a ∧ a < r.base + r.size)

/-- The address is in `MEM`. -/
def Env.inMem (e : Env) (a : Nat) : Bool := e.regions.any fun r => r.contains a

/-- The address is in `CODE`. -/
def Env.inCode (e : Env) (a : Nat) : Bool := e.regions.any fun r => r.kind == .code && r.contains a

/-- The addresses an access of n bytes touches: `addr, addr + 1, .., addr + n - 1` (R29), modulo 2^32 (R36). -/
def accessAddresses (addr : Word) (n : Nat) : List Nat :=
  (List.range n).map fun i => (addr + BitVec.ofNat 32 i).toNat

/-- The address is no multiple of n (R25, R26). -/
def misaligned (addr : Word) (n : Nat) : Bool := addr.toNat % n != 0

/-! ## Bytes of memory -/

/-- `M[a]`. -/
def Memory.read : Memory → Nat → Byte
  | [], _ => unlistedByte
  | c :: rest, a => if c.1 = a then c.2 else Memory.read rest a

/-- The memory without an entry for the address. -/
def Memory.erase (m : Memory) (a : Nat) : Memory := m.filter fun c => c.1 != a

/-- The memory with an entry put before the first one of a higher address. -/
def Memory.insert : Memory → Nat → Byte → Memory
  | [], a, v => [(a, v)]
  | c :: rest, a, v => if a < c.1 then (a, v) :: c :: rest else c :: Memory.insert rest a v

/-- `M[a] <- v`, keeping the canonical form. -/
def Memory.write (m : Memory) (a : Nat) (v : Byte) : Memory :=
  if v = unlistedByte then m.erase a else (m.erase a).insert a v

/-- `M[a] <- v` for each address and byte listed, in order. -/
def Memory.writeAll (m : Memory) : List Host.Cell → Memory
  | [] => m
  | c :: rest => (m.write c.1 c.2).writeAll rest

/-! ## The primitives of 20_memory.md §3 -/

/-- The n-byte value at `addr`, whatever the address map says: the byte at the lowest address is bits 7:0 (R21). -/
def State.peek (s : State) (addr : Word) (n : Nat) : BitVec (8 * n) :=
  valueOfBytes n ((accessAddresses addr n).map s.mem.read)

/-- The memory after an n-byte value is stored at `addr` (R21, R23). -/
def State.poke (s : State) (addr : Word) (n : Nat) (v : BitVec (8 * n)) : State :=
  { s with mem := s.mem.writeAll ((accessAddresses addr n).zip (bytesOfValue n v)) }

/-- `MemRead(addr, n)` (R22): the value, or the state in which the exception is raised. -/
def State.memRead (s : State) (addr : Word) (n : Nat) : Except State (BitVec (8 * n)) :=
  if Config.misalignedDataFaults && misaligned addr n then
    .error (s.raise .loadAddressMisaligned addr)
  else if (accessAddresses addr n).any fun a => !s.env.inMem a then
    .error (s.raise .loadAccessFault addr)
  else .ok (s.peek addr n)

/-- `MemWrite(addr, n, v)` (R23): the state with the bytes stored, or the state in which the exception is raised or the
store into `CODE` refused. -/
def State.memWrite (s : State) (addr : Word) (n : Nat) (v : BitVec (8 * n)) : Except State State :=
  if Config.misalignedDataFaults && misaligned addr n then
    .error (s.raise .storeAddressMisaligned addr)
  else if (accessAddresses addr n).any fun a => !s.env.inMem a then
    .error (s.raise .storeAccessFault addr)
  else if (accessAddresses addr n).any fun a => s.env.inCode a then
    .error (s.refuse .storeToCode)
  else .ok (s.poke addr n v)

/-- `Fetch(pc)` (R24): the instruction word, or the state in which the exception is raised. -/
def State.fetch (s : State) : Except State Word :=
  if (accessAddresses s.pc 4).any fun a => !s.env.inCode a then
    .error (s.raise .instructionAccessFault s.pc)
  else .ok (s.peek s.pc 4)

/-! ## How the instruction shapes end -/

/-- A load: the value read, extended, goes to rd (47_loads.md R98). -/
def State.load (s : State) (rd : Reg) (addr : Word) (n : Nat) (extend : BitVec (8 * n) → Word) : Result :=
  match s.memRead addr n with
  | .error t => .next t
  | .ok v => .next (s.retire rd (extend v))

/-- A store (48_stores.md R104). -/
def State.store (s : State) (addr : Word) (n : Nat) (v : BitVec (8 * n)) : Result :=
  match s.memWrite addr n v with
  | .error t => .next t
  | .ok t => .next t.advance

/-- A jump: the link `pc + 4` goes to rd and the pc to the target, or the misaligned target is raised and neither is written
(45_unconditional_jumps.md R88). -/
def State.jump (s : State) (rd : Reg) (target : Word) : Result :=
  if misaligned target Config.ialignBytes then .next (s.raise .instructionAddressMisaligned target)
  else .next ((s.writeReg rd s.nextPc).setPc target)

/-- A conditional branch; one that is not taken never raises (46_conditional_branches.md R91). -/
def State.branch (s : State) (taken : Bool) (target : Word) : Result :=
  if taken then
    if misaligned target Config.ialignBytes then .next (s.raise .instructionAddressMisaligned target)
    else .next (s.setPc target)
  else .next s.advance

/-- What is left to do at a state whose outcome is terminal (R108: no further step is taken and no state changes). The run
that ended stays as it is; the run that faulted or was refused answers its outcome (DESIGN CHOICE, notes/assumptions/1.md). -/
def State.afterRun (s : State) : Result :=
  match s.outcome with
  | .running => .next s
  | .ended => .next s
  | .faulted cause info pc => .fault (.exception cause info pc)
  | .refused .storeToCode pc => .refused (.storeToCode pc)

/-! ## Placing an instruction for the fetch -/

/-- The state launched with the word at its pc (70_reset_and_hazards.md R129): the four bytes in memory and in `CODE`, the
run not stopped, and `END_PC` elsewhere. -/
def State.placeWord (s : State) (w : Word) : State :=
  let t := s.poke s.pc 4 w
  { t with
    outcome := .running
    env := { s.env with
             regions := { base := s.pc.toNat, size := 4, kind := .code } :: s.env.regions
             endPc := if s.env.endPc = s.pc then s.nextPc else s.env.endPc } }

end Sys2Proof.Machine
end

