-- ==== Sys2Proof/Machine/Operands.lean ====
section
/-! DEFINITION. The operand forms: how an instruction's field becomes a value, an address or a shift amount. -/

namespace Sys2Proof.Machine

/-- `sext_32` of a 12-bit immediate or offset, formats I and S (30_encoding.md R39, R41). -/
def imm12 (imm : BitVec 12) : Word := imm.signExtend 32

/-- `U_imm`: the 20-bit field at bits 31:12, zeros below (R43). -/
def upperImm (imm : BitVec 20) : Word := imm ++ 0#12

/-- `B_imm`: the 13-bit branch offset, sign-extended (R42). -/
def branchImm (offset : BitVec 13) : Word := offset.signExtend 32

/-- `J_imm`: the 21-bit jump offset, sign-extended (R44). -/
def jumpImm (offset : BitVec 21) : Word := offset.signExtend 32

/-- The shift amount a register holds: its 5 low bits (43_shifts.md R77). -/
def regShamt (v : Word) : Nat := (v.extractLsb' 0 5).toNat

/-- The shift amount an instruction holds (R77). -/
def immShamt (shamt : BitVec 5) : Nat := shamt.toNat

/-- The address of a load or store, `x[rs1] + sext_32(offset)` modulo 2^32 (20_memory.md R36). -/
def effectiveAddress (s : State) (rs1 : Reg) (offset : BitVec 12) : Word := s.readReg rs1 + imm12 offset

/-- The target of JAL (45_unconditional_jumps.md R88). -/
def jalTarget (s : State) (offset : BitVec 21) : Word := s.pc + jumpImm offset

/-- The target of JALR: the sum with bit 0 cleared (R88). -/
def jalrTarget (s : State) (rs1 : Reg) (offset : BitVec 12) : Word :=
  (s.readReg rs1 + imm12 offset) &&& 0xFFFFFFFE#32

/-- The target of a taken branch (46_conditional_branches.md R91). -/
def branchTarget (s : State) (offset : BitVec 13) : Word := s.pc + branchImm offset

end Sys2Proof.Machine
end

