-- ==== Sys2Proof/Machine/Flags.lean ====
section
/-! DEFINITION. The machine has no flags (10_state.md R13): a comparison is a value that goes to a register, or the condition
of a branch. This file holds those comparisons. -/

namespace Sys2Proof.Machine

/-- `a <s b` (00_scope.md §5.2). -/
def lessSigned (a b : Word) : Bool := a.slt b

/-- `a <u b`. -/
def lessUnsigned (a b : Word) : Bool := a.ult b

/-- The word a comparison writes: 1 where it holds, else 0 (44_compare.md R84 to R87). -/
def flagWord (holds : Bool) : Word := if holds then 1#32 else 0#32

end Sys2Proof.Machine
end

