-- ==== Sys2Proof/Machine/Arithmetic.lean ====
section
/-! DEFINITION. Arithmetic: ADD, ADDI, SUB, the four multiplications and the four divisions (41_arithmetic.md). None raises
an exception or sets a flag. -/

namespace Sys2Proof.Machine

/-! ## Products (R58) -/

/-- Bits 63:32 of an exact 64-bit product: rounding toward minus infinity, as the bits of two's complement do (R58). -/
def upperHalf (product : Int) : Word := to32 (product.fdiv (2 ^ 32))

/-- Bits 31:0 of the product, the same for signed and unsigned factors (R58). -/
def mulLow (a b : Word) : Word := to32 ((a.toNat : Int) * (b.toNat : Int))

/-- The upper half of signed by signed (R58, MULH). -/
def mulHighSigned (a b : Word) : Word := upperHalf (a.toInt * b.toInt)

/-- The upper half of signed by unsigned (R58, MULHSU). -/
def mulHighSignedUnsigned (a b : Word) : Word := upperHalf (a.toInt * (b.toNat : Int))

/-- The upper half of unsigned by unsigned (R58, MULHU). -/
def mulHighUnsigned (a b : Word) : Word := upperHalf ((a.toNat : Int) * (b.toNat : Int))

/-! ## Quotients and remainders (R59) -/

/-- The one signed overflow, -2^31 by -1 (R59). -/
def divOverflows (a b : Word) : Bool := a == 0x80000000#32 && b == 0xFFFFFFFF#32

/-- The quotient of DIV, rounded toward zero, with the default `DIVCFG` (R59, R67). -/
def quotientSigned (a b : Word) : Word :=
  if b = 0#32 then 0xFFFFFFFF#32
  else if divOverflows a b then 0x80000000#32
  else to32 (a.toInt.tdiv b.toInt)

/-- The quotient of DIVU (R59, R68). -/
def quotientUnsigned (a b : Word) : Word :=
  if b = 0#32 then 0xFFFFFFFF#32 else to32 (a.toNat / b.toNat : Nat)

/-- The remainder of REM, with the sign of the dividend (R59, R69). -/
def remainderSigned (a b : Word) : Word :=
  if b = 0#32 then a
  else if divOverflows a b then 0#32
  else to32 (a.toInt - b.toInt * a.toInt.tdiv b.toInt)

/-- The remainder of REMU (R59, R70). -/
def remainderUnsigned (a b : Word) : Word :=
  if b = 0#32 then a
  else to32 ((a.toNat : Int) - (b.toNat : Int) * ((a.toNat / b.toNat : Nat) : Int))

/-- `DIVCFG` at its default (R59; D7). -/
def divCfg : DivCfg where
  div := quotientSigned
  divu := quotientUnsigned
  rem := remainderSigned
  remu := remainderUnsigned

/-- The result by zero of a dividend: the one listed for it, else the default. -/
def resultByZero (listed : List (Word × Word)) (default : Word → Word → Word) (a : Word) : Word :=
  (listed.lookup a).getD (default a 0#32)

/-- The `DIVCFG` with the corner values listed, and everything else as the default has it (R5, R59; D7). -/
def DivOverrides.cfg (o : DivOverrides) : DivCfg where
  div a b :=
    if b = 0#32 then resultByZero o.divByZero divCfg.div a
    else if divOverflows a b then o.divOverflow.getD (divCfg.div a b)
    else divCfg.div a b
  divu a b := if b = 0#32 then resultByZero o.divuByZero divCfg.divu a else divCfg.divu a b
  rem a b :=
    if b = 0#32 then resultByZero o.remByZero divCfg.rem a
    else if divOverflows a b then o.remOverflow.getD (divCfg.rem a b)
    else divCfg.rem a b
  remu a b := if b = 0#32 then resultByZero o.remuByZero divCfg.remu a else divCfg.remu a b

/-- The `DIVCFG` of the run: what the four divisions write (R5, R59). -/
def State.division (s : State) : DivCfg := s.env.divOverrides.cfg

/-! ## The instructions -/

/-- ADD (R57, R60). -/
def execAdd (rd rs1 rs2 : Reg) (s : State) : Result :=
  .next (s.retire rd (s.readReg rs1 + s.readReg rs2))

/-- ADDI (R57, R61). -/
def execAddi (rd rs1 : Reg) (imm : BitVec 12) (s : State) : Result :=
  .next (s.retire rd (s.readReg rs1 + imm12 imm))

/-- SUB (R57, R62). -/
def execSub (rd rs1 rs2 : Reg) (s : State) : Result :=
  .next (s.retire rd (s.readReg rs1 - s.readReg rs2))

/-- MUL (R63). -/
def execMul (rd rs1 rs2 : Reg) (s : State) : Result :=
  .next (s.retire rd (mulLow (s.readReg rs1) (s.readReg rs2)))

/-- MULH (R64). -/
def execMulh (rd rs1 rs2 : Reg) (s : State) : Result :=
  .next (s.retire rd (mulHighSigned (s.readReg rs1) (s.readReg rs2)))

/-- MULHSU (R65): rs1 is the signed factor. -/
def execMulhsu (rd rs1 rs2 : Reg) (s : State) : Result :=
  .next (s.retire rd (mulHighSignedUnsigned (s.readReg rs1) (s.readReg rs2)))

/-- MULHU (R66). -/
def execMulhu (rd rs1 rs2 : Reg) (s : State) : Result :=
  .next (s.retire rd (mulHighUnsigned (s.readReg rs1) (s.readReg rs2)))

/-- DIV (R67): rs1 is the dividend. -/
def execDiv (rd rs1 rs2 : Reg) (s : State) : Result :=
  .next (s.retire rd (s.division.div (s.readReg rs1) (s.readReg rs2)))

/-- DIVU (R68). -/
def execDivu (rd rs1 rs2 : Reg) (s : State) : Result :=
  .next (s.retire rd (s.division.divu (s.readReg rs1) (s.readReg rs2)))

/-- REM (R69). -/
def execRem (rd rs1 rs2 : Reg) (s : State) : Result :=
  .next (s.retire rd (s.division.rem (s.readReg rs1) (s.readReg rs2)))

/-- REMU (R70). -/
def execRemu (rd rs1 rs2 : Reg) (s : State) : Result :=
  .next (s.retire rd (s.division.remu (s.readReg rs1) (s.readReg rs2)))

end Sys2Proof.Machine
end

