-- ==== Sys2Proof/Machine/Boolean.lean ====
section
/-! DEFINITION. Boolean logic: XOR, XORI, OR, ORI, AND, ANDI (42_boolean_logic.md). All are bitwise, and an immediate is
sign-extended first. -/

namespace Sys2Proof.Machine

/-- XOR (R71). -/
def execXor (rd rs1 rs2 : Reg) (s : State) : Result :=
  .next (s.retire rd (s.readReg rs1 ^^^ s.readReg rs2))

/-- XORI (R72). -/
def execXori (rd rs1 : Reg) (imm : BitVec 12) (s : State) : Result :=
  .next (s.retire rd (s.readReg rs1 ^^^ imm12 imm))

/-- OR (R73). -/
def execOr (rd rs1 rs2 : Reg) (s : State) : Result :=
  .next (s.retire rd (s.readReg rs1 ||| s.readReg rs2))

/-- ORI (R74). -/
def execOri (rd rs1 : Reg) (imm : BitVec 12) (s : State) : Result :=
  .next (s.retire rd (s.readReg rs1 ||| imm12 imm))

/-- AND (R75). -/
def execAnd (rd rs1 rs2 : Reg) (s : State) : Result :=
  .next (s.retire rd (s.readReg rs1 &&& s.readReg rs2))

/-- ANDI (R76): an AND, though the source's prose says OR (90_conflicts.md C1). -/
def execAndi (rd rs1 : Reg) (imm : BitVec 12) (s : State) : Result :=
  .next (s.retire rd (s.readReg rs1 &&& imm12 imm))

end Sys2Proof.Machine
end

