-- ==== Sys2Proof/Machine/Branches.lean ====
section
/-! DEFINITION. Conditional branches: BEQ, BNE, BLT, BGE, BLTU, BGEU (46_conditional_branches.md). They compare the values of
the two registers (90_conflicts.md C6). -/

namespace Sys2Proof.Machine

/-- BEQ (R91, R92). -/
def execBeq (rs1 rs2 : Reg) (offset : BitVec 13) (s : State) : Result :=
  s.branch (s.readReg rs1 == s.readReg rs2) (branchTarget s offset)

/-- BNE (R91, R93). -/
def execBne (rs1 rs2 : Reg) (offset : BitVec 13) (s : State) : Result :=
  s.branch (s.readReg rs1 != s.readReg rs2) (branchTarget s offset)

/-- BLT (R91, R94). -/
def execBlt (rs1 rs2 : Reg) (offset : BitVec 13) (s : State) : Result :=
  s.branch (lessSigned (s.readReg rs1) (s.readReg rs2)) (branchTarget s offset)

/-- BGE (R91, R95). -/
def execBge (rs1 rs2 : Reg) (offset : BitVec 13) (s : State) : Result :=
  s.branch (!lessSigned (s.readReg rs1) (s.readReg rs2)) (branchTarget s offset)

/-- BLTU (R91, R96). -/
def execBltu (rs1 rs2 : Reg) (offset : BitVec 13) (s : State) : Result :=
  s.branch (lessUnsigned (s.readReg rs1) (s.readReg rs2)) (branchTarget s offset)

/-- BGEU (R91, R97). -/
def execBgeu (rs1 rs2 : Reg) (offset : BitVec 13) (s : State) : Result :=
  s.branch (!lessUnsigned (s.readReg rs1) (s.readReg rs2)) (branchTarget s offset)

end Sys2Proof.Machine
end

