-- ==== Sys2Proof/Machine/Compare.lean ====
section
/-! DEFINITION. Compare: SLT, SLTI, SLTIU, SLTU (44_compare.md). The result is 1 or 0 in a general register. -/

namespace Sys2Proof.Machine

/-- SLT (R84). -/
def execSlt (rd rs1 rs2 : Reg) (s : State) : Result :=
  .next (s.retire rd (flagWord (lessSigned (s.readReg rs1) (s.readReg rs2))))

/-- SLTI (R85). -/
def execSlti (rd rs1 : Reg) (imm : BitVec 12) (s : State) : Result :=
  .next (s.retire rd (flagWord (lessSigned (s.readReg rs1) (imm12 imm))))

/-- SLTIU (R86): the immediate is sign-extended first and the comparison is unsigned. -/
def execSltiu (rd rs1 : Reg) (imm : BitVec 12) (s : State) : Result :=
  .next (s.retire rd (flagWord (lessUnsigned (s.readReg rs1) (imm12 imm))))

/-- SLTU (R87). -/
def execSltu (rd rs1 rs2 : Reg) (s : State) : Result :=
  .next (s.retire rd (flagWord (lessUnsigned (s.readReg rs1) (s.readReg rs2))))

end Sys2Proof.Machine
end

