-- ==== Sys2Proof/Machine/Jumps.lean ====
section
/-! DEFINITION. Unconditional jumps: JAL, JALR (45_unconditional_jumps.md). There is no delay slot, and the target is not
checked against the address map by the jump (R88). -/

namespace Sys2Proof.Machine

/-- JAL (R88, R89). -/
def execJal (rd : Reg) (offset : BitVec 21) (s : State) : Result :=
  s.jump rd (jalTarget s offset)

/-- JALR (R88, R90): x[rs1] is read before x[rd] is written. -/
def execJalr (rd rs1 : Reg) (offset : BitVec 12) (s : State) : Result :=
  s.jump rd (jalrTarget s rs1 offset)

end Sys2Proof.Machine
end

