-- ==== Sys2Proof/Machine/LoadConstant.lean ====
section
/-! DEFINITION. Load constant: LUI, AUIPC (40_load_constant.md). -/

namespace Sys2Proof.Machine

/-- LUI (R55). -/
def execLui (rd : Reg) (imm : BitVec 20) (s : State) : Result :=
  .next (s.retire rd (upperImm imm))

/-- AUIPC (R56). -/
def execAuipc (rd : Reg) (imm : BitVec 20) (s : State) : Result :=
  .next (s.retire rd (s.pc + upperImm imm))

end Sys2Proof.Machine
end

