-- ==== Sys2Proof/Machine/Loads.lean ====
section
/-! DEFINITION. Loads: LB, LH, LBU, LHU, LW (47_loads.md). A load to x0 still makes its access (30_encoding.md R49). -/

namespace Sys2Proof.Machine

/-- LB (R98, R99): sign-extended. -/
def execLb (rd rs1 : Reg) (offset : BitVec 12) (s : State) : Result :=
  s.load rd (effectiveAddress s rs1 offset) 1 (fun v => v.signExtend 32)

/-- LH (R98, R100): sign-extended. -/
def execLh (rd rs1 : Reg) (offset : BitVec 12) (s : State) : Result :=
  s.load rd (effectiveAddress s rs1 offset) 2 (fun v => v.signExtend 32)

/-- LBU (R98, R101): zero-extended. -/
def execLbu (rd rs1 : Reg) (offset : BitVec 12) (s : State) : Result :=
  s.load rd (effectiveAddress s rs1 offset) 1 (fun v => v.zeroExtend 32)

/-- LHU (R98, R102): zero-extended. -/
def execLhu (rd rs1 : Reg) (offset : BitVec 12) (s : State) : Result :=
  s.load rd (effectiveAddress s rs1 offset) 2 (fun v => v.zeroExtend 32)

/-- LW (R98, R103). -/
def execLw (rd rs1 : Reg) (offset : BitVec 12) (s : State) : Result :=
  s.load rd (effectiveAddress s rs1 offset) 4 (fun v => v)

end Sys2Proof.Machine
end

