-- ==== Sys2Proof/Machine/Shifts.lean ====
section
/-! DEFINITION. Shifts: SLL, SLLI, SRL, SRLI, SRA, SRAI (43_shifts.md). A register amount is the low 5 bits of the register
(90_conflicts.md C9); no bit shifted out is kept. -/

namespace Sys2Proof.Machine

/-- `v << n`: zeros enter at the low end (R77). -/
def shiftLeft (v : Word) (n : Nat) : Word := v <<< n

/-- `v >>u n`: zeros enter at the high end (R77). -/
def shiftRightLogical (v : Word) (n : Nat) : Word := v >>> n

/-- `v >>s n`: copies of bit 31 enter at the high end (R77; 90_conflicts.md C7). -/
def shiftRightArithmetic (v : Word) (n : Nat) : Word := v.sshiftRight n

/-- SLL (R78). -/
def execSll (rd rs1 rs2 : Reg) (s : State) : Result :=
  .next (s.retire rd (shiftLeft (s.readReg rs1) (regShamt (s.readReg rs2))))

/-- SLLI (R79). -/
def execSlli (rd rs1 : Reg) (shamt : BitVec 5) (s : State) : Result :=
  .next (s.retire rd (shiftLeft (s.readReg rs1) (immShamt shamt)))

/-- SRL (R80). -/
def execSrl (rd rs1 rs2 : Reg) (s : State) : Result :=
  .next (s.retire rd (shiftRightLogical (s.readReg rs1) (regShamt (s.readReg rs2))))

/-- SRLI (R81). -/
def execSrli (rd rs1 : Reg) (shamt : BitVec 5) (s : State) : Result :=
  .next (s.retire rd (shiftRightLogical (s.readReg rs1) (immShamt shamt)))

/-- SRA (R82). -/
def execSra (rd rs1 rs2 : Reg) (s : State) : Result :=
  .next (s.retire rd (shiftRightArithmetic (s.readReg rs1) (regShamt (s.readReg rs2))))

/-- SRAI (R83). -/
def execSrai (rd rs1 : Reg) (shamt : BitVec 5) (s : State) : Result :=
  .next (s.retire rd (shiftRightArithmetic (s.readReg rs1) (immShamt shamt)))

end Sys2Proof.Machine
end

