-- ==== Sys2Proof/Machine/Stores.lean ====
section
/-! DEFINITION. Stores: SB, SH, SW (48_stores.md). The low bytes of x[rs2] are stored; no register is written. -/

namespace Sys2Proof.Machine

/-- SB (R104, R105). -/
def execSb (rs2 rs1 : Reg) (offset : BitVec 12) (s : State) : Result :=
  s.store (effectiveAddress s rs1 offset) 1 ((s.readReg rs2).extractLsb' 0 8)

/-- SH (R104, R106). -/
def execSh (rs2 rs1 : Reg) (offset : BitVec 12) (s : State) : Result :=
  s.store (effectiveAddress s rs1 offset) 2 ((s.readReg rs2).extractLsb' 0 16)

/-- SW (R104, R107). -/
def execSw (rs2 rs1 : Reg) (offset : BitVec 12) (s : State) : Result :=
  s.store (effectiveAddress s rs1 offset) 4 (s.readReg rs2)

end Sys2Proof.Machine
end

