-- ==== Sys2Proof/Machine/Step.lean ====
section
/-! DEFINITION. One step of the machine (10_state.md R18) and the placing of an instruction for its fetch. -/

namespace Sys2Proof.Machine

/-- One step (R18), its phases in the order of 60_exceptions.md R115: the end of the run, the fetch, the decode, the
instruction. At a terminal outcome there is no further step (R108). -/
def step (s : State) : Host.Outcome State Fault Refusal :=
  match s.outcome with
  | .running =>
    if s.pc = s.env.endPc then .next s.finish
    else
      match s.fetch with
      | .error t => .next t
      | .ok w =>
        match decodeWord w with
        | .error _ => .next (s.raise .illegalInstruction w)
        | .ok i => exec i s
  | _ => s.afterRun

/-- The state launched with the instruction whose bits are `w` at its pc (bits from `nbits` on are zero), so that the next
step fetches and runs it: its bytes in memory and in `CODE`, the run not stopped, `END_PC` elsewhere
(notes/assumptions/9.md). -/
def State.withFetchWord (s : State) (nbits w : Nat) : State :=
  s.placeWord (BitVec.ofNat 32 (w % 2 ^ nbits))

end Sys2Proof.Machine
end

