-- ==== Sys2Proof/Machine/Assembly.lean ====
section
/-! DEFINITION. The assembly language of 30_encoding.md §5 (R51 to R53) over operands already read as numbers: the form of
each instruction, the values its operands may have, the default link register, the pseudo-instructions of R52 and the
register names of 10_state.md R8. Nothing of this is in the hardware: a step sees words alone (R8, R52; 90_conflicts.md
C13). -/

namespace Sys2Proof

/-- An operand as it is written (R51). -/
inductive AsmOperand where
  /-- A register `x<n>`. -/
  | reg (n : Nat)
  /-- A number. -/
  | num (v : Int)
  /-- `offset(rs1)`. -/
  | mem (offset : Int) (base : Nat)
  deriving DecidableEq, Repr

/-- One instruction in assembly: the mnemonic in lower case and the operands in the order they are written. -/
structure AsmLine where
  mnemonic : String
  operands : List AsmOperand
  deriving DecidableEq, Repr

/-! ## The legal values of operands (R53) -/

/-- A register number 0 .. 31. -/
def asmReg (n : Nat) : Option Reg := if n < 32 then some (BitVec.ofNat 5 n) else none

/-- A number that an unsigned field of w bits holds: `imm` of LUI and AUIPC, `shamt`. -/
def asmUnsigned (w : Nat) (v : Int) : Option (BitVec w) :=
  if 0 ≤ v ∧ v < 2 ^ w then some (BitVec.ofInt w v) else none

/-- A number that a signed field of 12 bits holds: `immediate`, and `offset` of loads, stores and JALR. -/
def asmSigned12 (v : Int) : Option (BitVec 12) :=
  if -2048 ≤ v ∧ v ≤ 2047 then some (BitVec.ofInt 12 v) else none

/-- The offset of a branch: even, -4096 .. 4094. -/
def asmBranchOffset (v : Int) : Option (BitVec 13) :=
  if v % 2 = 0 ∧ -4096 ≤ v ∧ v ≤ 4094 then some (BitVec.ofInt 13 v) else none

/-- The offset of JAL: even, -1048576 .. 1048574. -/
def asmJumpOffset (v : Int) : Option (BitVec 21) :=
  if v % 2 = 0 ∧ -1048576 ≤ v ∧ v ≤ 1048574 then some (BitVec.ofInt 21 v) else none

/-! ## The forms (R51) -/

/-- `op rd, imm`. -/
def asmFormU : List (String × (Reg → BitVec 20 → Instr)) := [("lui", .lui), ("auipc", .auipc)]

/-- `op rd, rs1, rs2`. -/
def asmFormR : List (String × (Reg → Reg → Reg → Instr)) :=
  [("add", .add), ("sub", .sub), ("mul", .mul), ("mulh", .mulh), ("mulhsu", .mulhsu), ("mulhu", .mulhu), ("div", .div),
   ("divu", .divu), ("rem", .rem), ("remu", .remu), ("xor", .xor), ("or", .or), ("and", .and), ("sll", .sll),
   ("srl", .srl), ("sra", .sra), ("slt", .slt), ("sltu", .sltu)]

/-- `op rd, rs1, immediate`. -/
def asmFormI : List (String × (Reg → Reg → BitVec 12 → Instr)) :=
  [("addi", .addi), ("xori", .xori), ("ori", .ori), ("andi", .andi), ("slti", .slti), ("sltiu", .sltiu)]

/-- `op rd, rs1, shamt`. -/
def asmFormShift : List (String × (Reg → Reg → BitVec 5 → Instr)) := [("slli", .slli), ("srli", .srli), ("srai", .srai)]

/-- `op rs1, rs2, offset`. -/
def asmFormBranch : List (String × (Reg → Reg → BitVec 13 → Instr)) :=
  [("beq", .beq), ("bne", .bne), ("blt", .blt), ("bge", .bge), ("bltu", .bltu), ("bgeu", .bgeu)]

/-- `jalr rd, offset(rs1)`; `op rd, offset(rs1)`, the loads; `op rs2, offset(rs1)`, the stores. -/
def asmFormMem : List (String × (Reg → Reg → BitVec 12 → Instr)) :=
  [("jalr", .jalr), ("lb", .lb), ("lh", .lh), ("lbu", .lbu), ("lhu", .lhu), ("lw", .lw), ("sb", .sb), ("sh", .sh),
   ("sw", .sw)]

/-- The instruction a line stands for; none for a line of no form of R51 or with an operand that R53 does not allow. With rd
omitted, JAL and JALR link in x1 (R8, R52). -/
def assemble (line : AsmLine) : Option Instr :=
  match line.operands with
  | [.num offset] => if line.mnemonic = "jal" then (asmJumpOffset offset).map (.jal 1#5) else none
  | [.mem offset base] =>
    if line.mnemonic = "jalr" then (asmReg base).bind fun rs1 => (asmSigned12 offset).map (.jalr 1#5 rs1) else none
  | [.reg r, .num v] =>
    if line.mnemonic = "jal" then (asmReg r).bind fun rd => (asmJumpOffset v).map (.jal rd)
    else (asmFormU.lookup line.mnemonic).bind fun i => (asmReg r).bind fun rd => (asmUnsigned 20 v).map (i rd)
  | [.reg r, .reg a, .reg b] =>
    (asmFormR.lookup line.mnemonic).bind fun i => (asmReg r).bind fun rd => (asmReg a).bind fun rs1 =>
      (asmReg b).map (i rd rs1)
  | [.reg r, .reg a, .num v] =>
    match asmFormI.lookup line.mnemonic, asmFormShift.lookup line.mnemonic, asmFormBranch.lookup line.mnemonic with
    | some i, _, _ => (asmReg r).bind fun rd => (asmReg a).bind fun rs1 => (asmSigned12 v).map (i rd rs1)
    | _, some i, _ => (asmReg r).bind fun rd => (asmReg a).bind fun rs1 => (asmUnsigned 5 v).map (i rd rs1)
    | _, _, some i => (asmReg r).bind fun rs1 => (asmReg a).bind fun rs2 => (asmBranchOffset v).map (i rs1 rs2)
    | none, none, none => none
  | [.reg r, .mem offset base] =>
    (asmFormMem.lookup line.mnemonic).bind fun i => (asmReg r).bind fun first => (asmReg base).bind fun rs1 =>
      (asmSigned12 offset).map (i first rs1)
  | _ => none

/-! ## An instruction as it is written -/

/-- The operand a register is written as. -/
def asmOfReg (r : Reg) : AsmOperand := .reg r.toNat

/-- `op rd, rs1, rs2`. -/
def asmLineR (op : String) (rd rs1 rs2 : Reg) : AsmLine := ⟨op, [asmOfReg rd, asmOfReg rs1, asmOfReg rs2]⟩

/-- Two registers and a number. -/
def asmLineN (op : String) (a b : Reg) (v : Int) : AsmLine := ⟨op, [asmOfReg a, asmOfReg b, .num v]⟩

/-- A register and `offset(rs1)`. -/
def asmLineM (op : String) (r rs1 : Reg) (offset : BitVec 12) : AsmLine := ⟨op, [asmOfReg r, .mem offset.toInt rs1.toNat]⟩

/-- The line an instruction is written as, every operand in full (R51). -/
def disassemble : Instr → AsmLine
  | .lui rd imm => ⟨"lui", [asmOfReg rd, .num imm.toNat]⟩
  | .auipc rd imm => ⟨"auipc", [asmOfReg rd, .num imm.toNat]⟩
  | .add rd rs1 rs2 => asmLineR "add" rd rs1 rs2
  | .addi rd rs1 imm => asmLineN "addi" rd rs1 imm.toInt
  | .sub rd rs1 rs2 => asmLineR "sub" rd rs1 rs2
  | .mul rd rs1 rs2 => asmLineR "mul" rd rs1 rs2
  | .mulh rd rs1 rs2 => asmLineR "mulh" rd rs1 rs2
  | .mulhsu rd rs1 rs2 => asmLineR "mulhsu" rd rs1 rs2
  | .mulhu rd rs1 rs2 => asmLineR "mulhu" rd rs1 rs2
  | .div rd rs1 rs2 => asmLineR "div" rd rs1 rs2
  | .divu rd rs1 rs2 => asmLineR "divu" rd rs1 rs2
  | .rem rd rs1 rs2 => asmLineR "rem" rd rs1 rs2
  | .remu rd rs1 rs2 => asmLineR "remu" rd rs1 rs2
  | .xor rd rs1 rs2 => asmLineR "xor" rd rs1 rs2
  | .xori rd rs1 imm => asmLineN "xori" rd rs1 imm.toInt
  | .or rd rs1 rs2 => asmLineR "or" rd rs1 rs2
  | .ori rd rs1 imm => asmLineN "ori" rd rs1 imm.toInt
  | .and rd rs1 rs2 => asmLineR "and" rd rs1 rs2
  | .andi rd rs1 imm => asmLineN "andi" rd rs1 imm.toInt
  | .sll rd rs1 rs2 => asmLineR "sll" rd rs1 rs2
  | .slli rd rs1 shamt => asmLineN "slli" rd rs1 shamt.toNat
  | .srl rd rs1 rs2 => asmLineR "srl" rd rs1 rs2
  | .srli rd rs1 shamt => asmLineN "srli" rd rs1 shamt.toNat
  | .sra rd rs1 rs2 => asmLineR "sra" rd rs1 rs2
  | .srai rd rs1 shamt => asmLineN "srai" rd rs1 shamt.toNat
  | .slt rd rs1 rs2 => asmLineR "slt" rd rs1 rs2
  | .slti rd rs1 imm => asmLineN "slti" rd rs1 imm.toInt
  | .sltiu rd rs1 imm => asmLineN "sltiu" rd rs1 imm.toInt
  | .sltu rd rs1 rs2 => asmLineR "sltu" rd rs1 rs2
  | .jal rd offset => ⟨"jal", [asmOfReg rd, .num offset.toInt]⟩
  | .jalr rd rs1 offset => asmLineM "jalr" rd rs1 offset
  | .beq rs1 rs2 offset => asmLineN "beq" rs1 rs2 offset.toInt
  | .bne rs1 rs2 offset => asmLineN "bne" rs1 rs2 offset.toInt
  | .blt rs1 rs2 offset => asmLineN "blt" rs1 rs2 offset.toInt
  | .bge rs1 rs2 offset => asmLineN "bge" rs1 rs2 offset.toInt
  | .bltu rs1 rs2 offset => asmLineN "bltu" rs1 rs2 offset.toInt
  | .bgeu rs1 rs2 offset => asmLineN "bgeu" rs1 rs2 offset.toInt
  | .lb rd rs1 offset => asmLineM "lb" rd rs1 offset
  | .lh rd rs1 offset => asmLineM "lh" rd rs1 offset
  | .lbu rd rs1 offset => asmLineM "lbu" rd rs1 offset
  | .lhu rd rs1 offset => asmLineM "lhu" rd rs1 offset
  | .lw rd rs1 offset => asmLineM "lw" rd rs1 offset
  | .sb rs2 rs1 offset => asmLineM "sb" rs2 rs1 offset
  | .sh rs2 rs1 offset => asmLineM "sh" rs2 rs1 offset
  | .sw rs2 rs1 offset => asmLineM "sw" rs2 rs1 offset

/-- The text of an operand. -/
def asmOperandText : AsmOperand → String
  | .reg n => "x" ++ toString n
  | .num v => toString v
  | .mem offset base => toString offset ++ "(x" ++ toString base ++ ")"

/-- The text of a line. -/
def asmLineText (line : AsmLine) : String :=
  line.mnemonic ++ " " ++ String.intercalate ", " (line.operands.map asmOperandText)

/-! ## Reading aids, of which the source lists none (R8, R52; D23, D30) -/

/-- `lo` of the expansion of `li`: the low 12 bits of v as a signed number. -/
def asmLow (v : Int) : Int := (BitVec.ofInt 12 v).toInt

/-- `hi` of the expansion of `li`: bits 31:12 of v - lo. -/
def asmHigh (v : Int) : Int := (((BitVec.ofInt 32 (v - asmLow v)).extractLsb' 12 20).toNat : Int)

/-- The usual pseudo-instructions that stay inside this instruction set, and the lines they stand for (R52); none for any
other line. -/
def expandPseudo (line : AsmLine) : Option (List AsmLine) :=
  match line.operands with
  | [] =>
    if line.mnemonic = "nop" then some [⟨"addi", [.reg 0, .reg 0, .num 0]⟩]
    else if line.mnemonic = "ret" then some [⟨"jalr", [.reg 0, .mem 0 1]⟩]
    else none
  | [.reg rs] => if line.mnemonic = "jr" then some [⟨"jalr", [.reg 0, .mem 0 rs]⟩] else none
  | [.num offset] => if line.mnemonic = "j" then some [⟨"jal", [.reg 0, .num offset]⟩] else none
  | [.reg rd, .reg rs] =>
    if line.mnemonic = "mv" then some [⟨"addi", [.reg rd, .reg rs, .num 0]⟩]
    else if line.mnemonic = "not" then some [⟨"xori", [.reg rd, .reg rs, .num (-1)]⟩]
    else if line.mnemonic = "neg" then some [⟨"sub", [.reg rd, .reg 0, .reg rs]⟩]
    else if line.mnemonic = "seqz" then some [⟨"sltiu", [.reg rd, .reg rs, .num 1]⟩]
    else if line.mnemonic = "snez" then some [⟨"sltu", [.reg rd, .reg 0, .reg rs]⟩]
    else none
  | [.reg r, .num v] =>
    if line.mnemonic = "beqz" then some [⟨"beq", [.reg r, .reg 0, .num v]⟩]
    else if line.mnemonic = "bnez" then some [⟨"bne", [.reg r, .reg 0, .num v]⟩]
    else if line.mnemonic = "li" then
      if -2048 ≤ v ∧ v ≤ 2047 then some [⟨"addi", [.reg r, .reg 0, .num v]⟩]
      else some [⟨"lui", [.reg r, .num (asmHigh v)]⟩, ⟨"addi", [.reg r, .reg r, .num (asmLow v)]⟩]
    else none
  | _ => none

/-- The usual names of x0 .. x31, in order; x8 is also called fp (R8). -/
def abiNames : List String :=
  ["zero", "ra", "sp", "gp", "tp", "t0", "t1", "t2", "s0", "s1", "a0", "a1", "a2", "a3", "a4", "a5", "a6", "a7", "s2",
   "s3", "s4", "s5", "s6", "s7", "s8", "s9", "s10", "s11", "t3", "t4", "t5", "t6"]

end Sys2Proof
end

