-- ==== Sys2Proof/Machine/Launch.lean ====
section
/-! DEFINITION. The launch of a run: the open parameters of 00_scope.md R5 as named arguments (70_reset_and_hazards.md R129).
`State.reset` is one launch, with the choices that the assumption log names. -/

namespace Sys2Proof.Machine

/-- What the host fixes before the first step (R5, R129). -/
structure Launch where
  /-- `MEM` and `CODE`. -/
  regions : List Region
  /-- `INIT_MEM`. -/
  initMem : Memory
  /-- `INIT_X`; its entry for x0 has no effect (10_state.md R7). -/
  initX : Vector Word 32
  /-- `RESET_PC`. -/
  resetPc : Word
  /-- `END_PC`. -/
  endPc : Word
  /-- `DIVCFG`: its corner values that differ from the default of 41_arithmetic.md R59. -/
  divOverrides : DivOverrides
  deriving DecidableEq, Repr

/-- The parameters among them that the state holds throughout the run. -/
def Launch.env (l : Launch) : Env where
  regions := l.regions
  endPc := l.endPc
  divOverrides := l.divOverrides

/-- The state after reset, for given launch parameters (10_state.md R19, R128). -/
def State.launch (l : Launch) : State where
  x := l.initX.set 0 0#32
  pc := l.resetPc
  mem := l.initMem
  outcome := .running
  env := l.env

/-- The launch conditions of R129: `RESET_PC` and `END_PC` are multiples of 4, the first instruction can be fetched, and
`INIT_MEM` is the content of addresses of `MEM`, in canonical form. -/
def Launch.ok (l : Launch) : Bool :=
  !misaligned l.resetPc Config.ialignBytes && !misaligned l.endPc Config.ialignBytes &&
    (accessAddresses l.resetPc 4).all l.env.inCode &&
    decide l.initMem.wf &&
    l.initMem.all fun c => l.env.inMem c.1

end Sys2Proof.Machine
end

