-- ==== Sys2Proof/Safety.lean ====
section
/-! DEFINITION. What the claims speak of: what each instruction may read, write and raise, the invariant of a run, and the
relations between the states before and after an instruction. -/

namespace Sys2Proof

/-! ## What an instruction may touch (10_state.md R9) -/

/-- The register an instruction writes (R9). -/
def Instr.dest : Instr → Option Reg
  | .lui rd _ => some rd
  | .auipc rd _ => some rd
  | .add rd _ _ => some rd
  | .addi rd _ _ => some rd
  | .sub rd _ _ => some rd
  | .mul rd _ _ => some rd
  | .mulh rd _ _ => some rd
  | .mulhsu rd _ _ => some rd
  | .mulhu rd _ _ => some rd
  | .div rd _ _ => some rd
  | .divu rd _ _ => some rd
  | .rem rd _ _ => some rd
  | .remu rd _ _ => some rd
  | .xor rd _ _ => some rd
  | .xori rd _ _ => some rd
  | .or rd _ _ => some rd
  | .ori rd _ _ => some rd
  | .and rd _ _ => some rd
  | .andi rd _ _ => some rd
  | .sll rd _ _ => some rd
  | .slli rd _ _ => some rd
  | .srl rd _ _ => some rd
  | .srli rd _ _ => some rd
  | .sra rd _ _ => some rd
  | .srai rd _ _ => some rd
  | .slt rd _ _ => some rd
  | .slti rd _ _ => some rd
  | .sltiu rd _ _ => some rd
  | .sltu rd _ _ => some rd
  | .jal rd _ => some rd
  | .jalr rd _ _ => some rd
  | .beq _ _ _ => none
  | .bne _ _ _ => none
  | .blt _ _ _ => none
  | .bge _ _ _ => none
  | .bltu _ _ _ => none
  | .bgeu _ _ _ => none
  | .lb rd _ _ => some rd
  | .lh rd _ _ => some rd
  | .lbu rd _ _ => some rd
  | .lhu rd _ _ => some rd
  | .lw rd _ _ => some rd
  | .sb _ _ _ => none
  | .sh _ _ _ => none
  | .sw _ _ _ => none

/-- The registers an instruction reads (R9). -/
def Instr.sources : Instr → List Reg
  | .lui _ _ => []
  | .auipc _ _ => []
  | .add _ rs1 rs2 => [rs1, rs2]
  | .addi _ rs1 _ => [rs1]
  | .sub _ rs1 rs2 => [rs1, rs2]
  | .mul _ rs1 rs2 => [rs1, rs2]
  | .mulh _ rs1 rs2 => [rs1, rs2]
  | .mulhsu _ rs1 rs2 => [rs1, rs2]
  | .mulhu _ rs1 rs2 => [rs1, rs2]
  | .div _ rs1 rs2 => [rs1, rs2]
  | .divu _ rs1 rs2 => [rs1, rs2]
  | .rem _ rs1 rs2 => [rs1, rs2]
  | .remu _ rs1 rs2 => [rs1, rs2]
  | .xor _ rs1 rs2 => [rs1, rs2]
  | .xori _ rs1 _ => [rs1]
  | .or _ rs1 rs2 => [rs1, rs2]
  | .ori _ rs1 _ => [rs1]
  | .and _ rs1 rs2 => [rs1, rs2]
  | .andi _ rs1 _ => [rs1]
  | .sll _ rs1 rs2 => [rs1, rs2]
  | .slli _ rs1 _ => [rs1]
  | .srl _ rs1 rs2 => [rs1, rs2]
  | .srli _ rs1 _ => [rs1]
  | .sra _ rs1 rs2 => [rs1, rs2]
  | .srai _ rs1 _ => [rs1]
  | .slt _ rs1 rs2 => [rs1, rs2]
  | .slti _ rs1 _ => [rs1]
  | .sltiu _ rs1 _ => [rs1]
  | .sltu _ rs1 rs2 => [rs1, rs2]
  | .jal _ _ => []
  | .jalr _ rs1 _ => [rs1]
  | .beq rs1 rs2 _ => [rs1, rs2]
  | .bne rs1 rs2 _ => [rs1, rs2]
  | .blt rs1 rs2 _ => [rs1, rs2]
  | .bge rs1 rs2 _ => [rs1, rs2]
  | .bltu rs1 rs2 _ => [rs1, rs2]
  | .bgeu rs1 rs2 _ => [rs1, rs2]
  | .lb _ rs1 _ => [rs1]
  | .lh _ rs1 _ => [rs1]
  | .lbu _ rs1 _ => [rs1]
  | .lhu _ rs1 _ => [rs1]
  | .lw _ rs1 _ => [rs1]
  | .sb rs2 rs1 _ => [rs2, rs1]
  | .sh rs2 rs1 _ => [rs2, rs1]
  | .sw rs2 rs1 _ => [rs2, rs1]

/-- The instruction is a control transfer (R11). -/
def Instr.isTransfer : Instr → Bool
  | .lui _ _ => false
  | .auipc _ _ => false
  | .add _ _ _ => false
  | .addi _ _ _ => false
  | .sub _ _ _ => false
  | .mul _ _ _ => false
  | .mulh _ _ _ => false
  | .mulhsu _ _ _ => false
  | .mulhu _ _ _ => false
  | .div _ _ _ => false
  | .divu _ _ _ => false
  | .rem _ _ _ => false
  | .remu _ _ _ => false
  | .xor _ _ _ => false
  | .xori _ _ _ => false
  | .or _ _ _ => false
  | .ori _ _ _ => false
  | .and _ _ _ => false
  | .andi _ _ _ => false
  | .sll _ _ _ => false
  | .slli _ _ _ => false
  | .srl _ _ _ => false
  | .srli _ _ _ => false
  | .sra _ _ _ => false
  | .srai _ _ _ => false
  | .slt _ _ _ => false
  | .slti _ _ _ => false
  | .sltiu _ _ _ => false
  | .sltu _ _ _ => false
  | .jal _ _ => true
  | .jalr _ _ _ => true
  | .beq _ _ _ => true
  | .bne _ _ _ => true
  | .blt _ _ _ => true
  | .bge _ _ _ => true
  | .bltu _ _ _ => true
  | .bgeu _ _ _ => true
  | .lb _ _ _ => false
  | .lh _ _ _ => false
  | .lbu _ _ _ => false
  | .lhu _ _ _ => false
  | .lw _ _ _ => false
  | .sb _ _ _ => false
  | .sh _ _ _ => false
  | .sw _ _ _ => false

/-- The bytes a load reads (47_loads.md R98); 0 for an instruction that is no load. -/
def Instr.loadBytes : Instr → Nat
  | .lui _ _ => 0
  | .auipc _ _ => 0
  | .add _ _ _ => 0
  | .addi _ _ _ => 0
  | .sub _ _ _ => 0
  | .mul _ _ _ => 0
  | .mulh _ _ _ => 0
  | .mulhsu _ _ _ => 0
  | .mulhu _ _ _ => 0
  | .div _ _ _ => 0
  | .divu _ _ _ => 0
  | .rem _ _ _ => 0
  | .remu _ _ _ => 0
  | .xor _ _ _ => 0
  | .xori _ _ _ => 0
  | .or _ _ _ => 0
  | .ori _ _ _ => 0
  | .and _ _ _ => 0
  | .andi _ _ _ => 0
  | .sll _ _ _ => 0
  | .slli _ _ _ => 0
  | .srl _ _ _ => 0
  | .srli _ _ _ => 0
  | .sra _ _ _ => 0
  | .srai _ _ _ => 0
  | .slt _ _ _ => 0
  | .slti _ _ _ => 0
  | .sltiu _ _ _ => 0
  | .sltu _ _ _ => 0
  | .jal _ _ => 0
  | .jalr _ _ _ => 0
  | .beq _ _ _ => 0
  | .bne _ _ _ => 0
  | .blt _ _ _ => 0
  | .bge _ _ _ => 0
  | .bltu _ _ _ => 0
  | .bgeu _ _ _ => 0
  | .lb _ _ _ => 1
  | .lh _ _ _ => 2
  | .lbu _ _ _ => 1
  | .lhu _ _ _ => 2
  | .lw _ _ _ => 4
  | .sb _ _ _ => 0
  | .sh _ _ _ => 0
  | .sw _ _ _ => 0

/-- The bytes a store writes (48_stores.md R104); 0 for an instruction that is no store. -/
def Instr.storeBytes : Instr → Nat
  | .lui _ _ => 0
  | .auipc _ _ => 0
  | .add _ _ _ => 0
  | .addi _ _ _ => 0
  | .sub _ _ _ => 0
  | .mul _ _ _ => 0
  | .mulh _ _ _ => 0
  | .mulhsu _ _ _ => 0
  | .mulhu _ _ _ => 0
  | .div _ _ _ => 0
  | .divu _ _ _ => 0
  | .rem _ _ _ => 0
  | .remu _ _ _ => 0
  | .xor _ _ _ => 0
  | .xori _ _ _ => 0
  | .or _ _ _ => 0
  | .ori _ _ _ => 0
  | .and _ _ _ => 0
  | .andi _ _ _ => 0
  | .sll _ _ _ => 0
  | .slli _ _ _ => 0
  | .srl _ _ _ => 0
  | .srli _ _ _ => 0
  | .sra _ _ _ => 0
  | .srai _ _ _ => 0
  | .slt _ _ _ => 0
  | .slti _ _ _ => 0
  | .sltiu _ _ _ => 0
  | .sltu _ _ _ => 0
  | .jal _ _ => 0
  | .jalr _ _ _ => 0
  | .beq _ _ _ => 0
  | .bne _ _ _ => 0
  | .blt _ _ _ => 0
  | .bge _ _ _ => 0
  | .bltu _ _ _ => 0
  | .bgeu _ _ _ => 0
  | .lb _ _ _ => 0
  | .lh _ _ _ => 0
  | .lbu _ _ _ => 0
  | .lhu _ _ _ => 0
  | .lw _ _ _ => 0
  | .sb _ _ _ => 1
  | .sh _ _ _ => 2
  | .sw _ _ _ => 4

namespace Machine

/-- The address a load or store goes to (20_memory.md R36); none for any other instruction. -/
def dataAddress (s : State) : Instr → Option Word
  | .lui _ _ => none
  | .auipc _ _ => none
  | .add _ _ _ => none
  | .addi _ _ _ => none
  | .sub _ _ _ => none
  | .mul _ _ _ => none
  | .mulh _ _ _ => none
  | .mulhsu _ _ _ => none
  | .mulhu _ _ _ => none
  | .div _ _ _ => none
  | .divu _ _ _ => none
  | .rem _ _ _ => none
  | .remu _ _ _ => none
  | .xor _ _ _ => none
  | .xori _ _ _ => none
  | .or _ _ _ => none
  | .ori _ _ _ => none
  | .and _ _ _ => none
  | .andi _ _ _ => none
  | .sll _ _ _ => none
  | .slli _ _ _ => none
  | .srl _ _ _ => none
  | .srli _ _ _ => none
  | .sra _ _ _ => none
  | .srai _ _ _ => none
  | .slt _ _ _ => none
  | .slti _ _ _ => none
  | .sltiu _ _ _ => none
  | .sltu _ _ _ => none
  | .jal _ _ => none
  | .jalr _ _ _ => none
  | .beq _ _ _ => none
  | .bne _ _ _ => none
  | .blt _ _ _ => none
  | .bge _ _ _ => none
  | .bltu _ _ _ => none
  | .bgeu _ _ _ => none
  | .lb _ rs1 offset => some (effectiveAddress s rs1 offset)
  | .lh _ rs1 offset => some (effectiveAddress s rs1 offset)
  | .lbu _ rs1 offset => some (effectiveAddress s rs1 offset)
  | .lhu _ rs1 offset => some (effectiveAddress s rs1 offset)
  | .lw _ rs1 offset => some (effectiveAddress s rs1 offset)
  | .sb _ rs1 offset => some (effectiveAddress s rs1 offset)
  | .sh _ rs1 offset => some (effectiveAddress s rs1 offset)
  | .sw _ rs1 offset => some (effectiveAddress s rs1 offset)

/-- Where an instruction transfers control: the target of a jump or of a branch; none for any other instruction (R11). -/
def transferTarget (s : State) : Instr → Option Word
  | .lui _ _ => none
  | .auipc _ _ => none
  | .add _ _ _ => none
  | .addi _ _ _ => none
  | .sub _ _ _ => none
  | .mul _ _ _ => none
  | .mulh _ _ _ => none
  | .mulhsu _ _ _ => none
  | .mulhu _ _ _ => none
  | .div _ _ _ => none
  | .divu _ _ _ => none
  | .rem _ _ _ => none
  | .remu _ _ _ => none
  | .xor _ _ _ => none
  | .xori _ _ _ => none
  | .or _ _ _ => none
  | .ori _ _ _ => none
  | .and _ _ _ => none
  | .andi _ _ _ => none
  | .sll _ _ _ => none
  | .slli _ _ _ => none
  | .srl _ _ _ => none
  | .srli _ _ _ => none
  | .sra _ _ _ => none
  | .srai _ _ _ => none
  | .slt _ _ _ => none
  | .slti _ _ _ => none
  | .sltiu _ _ _ => none
  | .sltu _ _ _ => none
  | .jal _ offset => some (jalTarget s offset)
  | .jalr _ rs1 offset => some (jalrTarget s rs1 offset)
  | .beq _ _ offset => some (branchTarget s offset)
  | .bne _ _ offset => some (branchTarget s offset)
  | .blt _ _ offset => some (branchTarget s offset)
  | .bge _ _ offset => some (branchTarget s offset)
  | .bltu _ _ offset => some (branchTarget s offset)
  | .bgeu _ _ offset => some (branchTarget s offset)
  | .lb _ _ _ => none
  | .lh _ _ _ => none
  | .lbu _ _ _ => none
  | .lhu _ _ _ => none
  | .lw _ _ _ => none
  | .sb _ _ _ => none
  | .sh _ _ _ => none
  | .sw _ _ _ => none

/-- The addresses an instruction may store to: none but for SB, SH and SW (R104). -/
def storedAddresses (s : State) (i : Instr) : List Nat :=
  match dataAddress s i with
  | some addr => accessAddresses addr i.storeBytes
  | none => []

/-! ## The invariant of a run -/

/-- The pc is a multiple of 4 (10_state.md R12), memory is in canonical form and lists addresses of `MEM` alone (R16), and
the place of x0 in the register file holds zero (R7). -/
def Invariant (s : State) : Prop :=
  s.pc.toNat % 4 = 0 ∧ s.mem.wf ∧ (∀ c ∈ s.mem, s.env.inMem c.1 = true) ∧ s.x[0] = 0#32

/-! ## Before and after -/

/-- The registers of `s` with `x[rd] <- v`: nothing written for x0 (R7). -/
def withReg (s : State) (rd : Reg) (v : Word) : Reg → Word :=
  fun r => if r = rd ∧ rd ≠ 0#5 then v else s.readReg r

/-- From `s` to `t` the registers become `regs` and the pc `pc`; memory, outcome and launch parameters are as before. -/
def Becomes (s t : State) (regs : Reg → Word) (pc : Word) : Prop :=
  (∀ r, t.readReg r = regs r) ∧ t.pc = pc ∧ (∀ a, t.mem.read a = s.mem.read a) ∧
    t.outcome = s.outcome ∧ t.env = s.env

/-- From `s` to `t`: `x[rd] <- v; pc <- pc + 4` and nothing else (R11). -/
def Retires (s t : State) (rd : Reg) (v : Word) : Prop := Becomes s t (withReg s rd v) (s.pc + 4#32)

/-- From `s` to `t` the n bytes of `v` are stored at `addr`, bits 7:0 at the lowest address, and `pc <- pc + 4`; every other
byte, every register, the outcome and the launch parameters are as before (20_memory.md R21, R23). -/
def Stores (s t : State) (addr : Word) (n : Nat) (v : Word) : Prop :=
  (∀ k, k < n → t.mem.read (addr + BitVec.ofNat 32 k).toNat = v.extractLsb' (8 * k) 8) ∧
    (∀ a, a ∉ accessAddresses addr n → t.mem.read a = s.mem.read a) ∧
    (∀ r, t.readReg r = s.readReg r) ∧ t.pc = s.pc + 4#32 ∧ t.outcome = s.outcome ∧ t.env = s.env

/-- `Faulted(cause, info, pc)` at the instruction at `s.pc`, and nothing else changed (60_exceptions.md R108, R116). -/
def faultedAt (s : State) (cause : Cause) (info : Word) : State :=
  { s with outcome := .faulted cause info s.pc }

/-- `Refused(StoreToCode, pc)` at the instruction at `s.pc`, and nothing else changed (R108, R116). -/
def refusedAt (s : State) : State := { s with outcome := .refused .storeToCode s.pc }

/-- The four bytes at the pc as one word, the byte at the lowest address in bits 7:0 (20_memory.md R21, R24). -/
def wordAtPc (s : State) : Word :=
  s.mem.read (s.pc + 3#32).toNat ++ s.mem.read (s.pc + 2#32).toNat ++ s.mem.read (s.pc + 1#32).toNat ++ s.mem.read s.pc.toNat

/-- The four bytes at the pc are in `CODE` (R24). -/
def codeAtPc (s : State) : Prop := ∀ a ∈ accessAddresses s.pc 4, s.env.inCode a = true

/-- The step from `s` fetches the word at the pc and decodes it: the run goes on, is not at its end, and the word is in
`CODE` (10_state.md R18). -/
def Fetches (s : State) : Prop := s.outcome = .running ∧ s.pc ≠ s.env.endPc ∧ codeAtPc s

end Machine

end Sys2Proof
end

