-- ==== Sys2Proof/Certificates/Slice0/Obligations.lean ====
section
/-! DEFINITION. The statements for the provers, `def Obligations.<Name> : Prop`, each over every state or operand that its
binders name. A statement about an instruction's rule says three things: which words decode to the instruction, at every
value of every operand field; that the instruction answers a next state, and which; and where it raises an exception
instead. First the shapes that several statements share. -/

namespace Sys2Proof.Machine

/-! ## Which words an instruction has (30_encoding.md R38 to R44), the fields written in the order of the format's columns -/

/-- Formats R and I-shift (R38, R40): the second operand field is rs2, or the shift amount. -/
def WordsR (f7 : BitVec 7) (f3 : BitVec 3) (op : BitVec 7) (i : Reg → Reg → BitVec 5 → Instr) : Prop :=
  ∀ rd rs1 second : BitVec 5, decodeWord (f7 ++ second ++ rs1 ++ f3 ++ rd ++ op) = .ok (i rd rs1 second)

/-- Format I (R39). -/
def WordsI (f3 : BitVec 3) (op : BitVec 7) (i : Reg → Reg → BitVec 12 → Instr) : Prop :=
  ∀ (rd rs1 : BitVec 5) (imm : BitVec 12), decodeWord (imm ++ rs1 ++ f3 ++ rd ++ op) = .ok (i rd rs1 imm)

/-- Format S (R41): offset[11:5] in bits 31:25, offset[4:0] in bits 11:7. -/
def WordsS (f3 : BitVec 3) (i : Reg → Reg → BitVec 12 → Instr) : Prop :=
  ∀ (rs2 rs1 : BitVec 5) (high : BitVec 7) (low : BitVec 5),
    decodeWord (high ++ rs2 ++ rs1 ++ f3 ++ low ++ 0b0100011#7) = .ok (i rs2 rs1 (high ++ low))

/-- Format B (R42): offset[12] in bit 31, offset[10:5] in bits 30:25, offset[4:1] in bits 11:8, offset[11] in bit 7. -/
def WordsB (f3 : BitVec 3) (i : Reg → Reg → BitVec 13 → Instr) : Prop :=
  ∀ (rs1 rs2 : BitVec 5) (o12 o11 : BitVec 1) (o10_5 : BitVec 6) (o4_1 : BitVec 4),
    decodeWord (o12 ++ o10_5 ++ rs2 ++ rs1 ++ f3 ++ o4_1 ++ o11 ++ 0b1100011#7) =
      .ok (i rs1 rs2 (o12 ++ o11 ++ o10_5 ++ o4_1 ++ 0#1))

/-- Format U (R43). -/
def WordsU (op : BitVec 7) (i : Reg → BitVec 20 → Instr) : Prop :=
  ∀ (rd : BitVec 5) (imm : BitVec 20), decodeWord (imm ++ rd ++ op) = .ok (i rd imm)

/-- Format J (R44): offset[20] in bit 31, offset[10:1] in bits 30:21, offset[11] in bit 20, offset[19:12] in bits 19:12. -/
def WordsJ (i : Reg → BitVec 21 → Instr) : Prop :=
  ∀ (rd : BitVec 5) (o20 o11 : BitVec 1) (o10_1 : BitVec 10) (o19_12 : BitVec 8),
    decodeWord (o20 ++ o10_1 ++ o11 ++ o19_12 ++ rd ++ 0b1101111#7) =
      .ok (i rd (o20 ++ o19_12 ++ o11 ++ o10_1 ++ 0#1))

/-! ## What an instruction does -/

/-- In every state and for all registers, equal or not: the instruction answers the state in which x[rd] is a v that stands in
the relation to x[rs1] and x[rs2], the pc has advanced by 4 and nothing else has changed. -/
def ComputesR (i : Reg → Reg → Reg → Instr) (result : Word → Word → Word → Prop) : Prop :=
  ∀ rd rs1 rs2 s, ∃ t v, exec (i rd rs1 rs2) s = .next t ∧ Retires s t rd v ∧
    result (s.readReg rs1) (s.readReg rs2) v

/-- The same with the sign-extended immediate as second operand (R39). -/
def ComputesI (i : Reg → Reg → BitVec 12 → Instr) (result : Word → Word → Word → Prop) : Prop :=
  ∀ rd rs1 imm s, ∃ t v, exec (i rd rs1 imm) s = .next t ∧ Retires s t rd v ∧
    result (s.readReg rs1) (imm.signExtend 32) v

/-- In every state, whatever its `DIVCFG`: the instruction answers the state in which x[rd] is the value that the record gives
for x[rs1] and x[rs2], the pc has advanced by 4 and nothing else has changed (41_arithmetic.md R59). -/
def DividesBy (i : Reg → Reg → Reg → Instr) (result : DivCfg → Word → Word → Word) : Prop :=
  ∀ rd rs1 rs2 s, ∃ t, exec (i rd rs1 rs2) s = .next t ∧
    Retires s t rd (result s.division (s.readReg rs1) (s.readReg rs2))

/-- In every state whose `DIVCFG` is the default of R59: the same with the value that `result` gives. -/
def DividesByDefault (i : Reg → Reg → Reg → Instr) (result : Word → Word → Word) : Prop :=
  ∀ rd rs1 rs2 s, s.division = divCfg → ∃ t, exec (i rd rs1 rs2) s = .next t ∧
    Retires s t rd (result (s.readReg rs1) (s.readReg rs2))

/-- A shift by the low 5 bits of x[rs2] (43_shifts.md R77). -/
def ShiftsR (i : Reg → Reg → Reg → Instr) (result : Word → Nat → Word → Prop) : Prop :=
  ComputesR i fun a b v => result a (b.toNat % 32) v

/-- A shift by the shift amount of the instruction (R77). -/
def ShiftsI (i : Reg → Reg → BitVec 5 → Instr) (result : Word → Nat → Word → Prop) : Prop :=
  ∀ rd rs1 shamt s, ∃ t v, exec (i rd rs1 shamt) s = .next t ∧ Retires s t rd v ∧
    result (s.readReg rs1) shamt.toNat v

/-- `v` is `a` shifted left by `n`: as a number, and bit by bit (R77). -/
def ShiftedLeft (a : Word) (n : Nat) (v : Word) : Prop :=
  v = to32 ((a.toNat : Int) * 2 ^ n) ∧ ∀ k, k < 32 → v.getLsbD k = (decide (n ≤ k) && a.getLsbD (k - n))

/-- `v` is `a` shifted right by `n` with zeros entering (R77). -/
def ShiftedRight (a : Word) (n : Nat) (v : Word) : Prop :=
  v.toNat = a.toNat / 2 ^ n ∧ ∀ k, k < 32 → v.getLsbD k = (decide (k + n ≤ 31) && a.getLsbD (k + n))

/-- `v` is `a` shifted right by `n` with copies of bit 31 entering (R77); `/` on integers rounds toward minus infinity here. -/
def ShiftedRightSigned (a : Word) (n : Nat) (v : Word) : Prop :=
  v = to32 (a.toInt / 2 ^ n) ∧
    ∀ k, k < 32 → v.getLsbD k = if k + n ≤ 31 then a.getLsbD (k + n) else a.getLsbD 31

/-- A branch on a condition (46_conditional_branches.md R91): taken to a multiple of 4, not taken, and taken to another
address; no register and no byte of memory changes in any. -/
def Branches (i : Reg → Reg → BitVec 13 → Instr) (cond : Word → Word → Prop) : Prop :=
  (∀ rs1 rs2 offset s, cond (s.readReg rs1) (s.readReg rs2) → (s.pc + offset.signExtend 32).toNat % 4 = 0 →
    ∃ t, exec (i rs1 rs2 offset) s = .next t ∧ Becomes s t s.readReg (s.pc + offset.signExtend 32)) ∧
  (∀ rs1 rs2 offset s, ¬cond (s.readReg rs1) (s.readReg rs2) →
    ∃ t, exec (i rs1 rs2 offset) s = .next t ∧ Becomes s t s.readReg (s.pc + 4#32)) ∧
  (∀ rs1 rs2 offset s, cond (s.readReg rs1) (s.readReg rs2) → (s.pc + offset.signExtend 32).toNat % 4 ≠ 0 →
    exec (i rs1 rs2 offset) s =
      .next (faultedAt s .instructionAddressMisaligned (s.pc + offset.signExtend 32)))

/-- Each of the n bytes at `addr` is in `MEM` (20_memory.md R29). -/
def BytesInMem (s : State) (addr : Word) (n : Nat) : Prop :=
  ∀ k, k < n → s.env.inMem (addr + BitVec.ofNat 32 k).toNat = true

/-- Each of the n bytes at `addr` is outside `CODE`. -/
def BytesOutsideCode (s : State) (addr : Word) (n : Nat) : Prop :=
  ∀ k, k < n → s.env.inCode (addr + BitVec.ofNat 32 k).toNat = false

/-- A load of n bytes (47_loads.md R98): an aligned access inside `MEM` writes `value`, a function of the memory and the
address; an aligned access with a byte outside `MEM` raises LoadAccessFault. -/
def LoadsAligned (i : Reg → Reg → BitVec 12 → Instr) (n : Nat) (value : Memory → Word → Word) : Prop :=
  (∀ rd rs1 offset s addr, addr = s.readReg rs1 + offset.signExtend 32 → addr.toNat % n = 0 → BytesInMem s addr n →
    ∃ t, exec (i rd rs1 offset) s = .next t ∧ Retires s t rd (value s.mem addr)) ∧
  (∀ rd rs1 offset s addr, addr = s.readReg rs1 + offset.signExtend 32 → addr.toNat % n = 0 → ¬BytesInMem s addr n →
    exec (i rd rs1 offset) s = .next (faultedAt s .loadAccessFault addr))

/-- A load of n bytes all of which are in `CODE` writes the value they make (20_memory.md R34). -/
def LoadsFromCode (i : Reg → Reg → BitVec 12 → Instr) (n : Nat) (value : Memory → Word → Word) : Prop :=
  ∀ rd rs1 offset s addr, addr = s.readReg rs1 + offset.signExtend 32 → addr.toNat % n = 0 →
    (∀ k, k < n → s.env.inCode (addr + BitVec.ofNat 32 k).toNat = true) →
    ∃ t, exec (i rd rs1 offset) s = .next t ∧ Retires s t rd (value s.mem addr)

/-- A load of n bytes at an address that is no multiple of n raises LoadAddressMisaligned, wherever the address lies. -/
def LoadMisaligned (i : Reg → Reg → BitVec 12 → Instr) (n : Nat) : Prop :=
  ∀ rd rs1 offset s addr, addr = s.readReg rs1 + offset.signExtend 32 → addr.toNat % n ≠ 0 →
    exec (i rd rs1 offset) s = .next (faultedAt s .loadAddressMisaligned addr)

/-- A store of n bytes (48_stores.md R104): an aligned access inside `MEM` and outside `CODE` stores the low n bytes of
x[rs2] and changes nothing else but the pc; with a byte outside `MEM` it raises StoreAccessFault; inside `MEM` with a byte
in `CODE` it is refused. -/
def StoresAligned (i : Reg → Reg → BitVec 12 → Instr) (n : Nat) : Prop :=
  (∀ rs2 rs1 offset s addr, addr = s.readReg rs1 + offset.signExtend 32 → addr.toNat % n = 0 → BytesInMem s addr n →
    BytesOutsideCode s addr n → ∃ t, exec (i rs2 rs1 offset) s = .next t ∧ Stores s t addr n (s.readReg rs2)) ∧
  (∀ rs2 rs1 offset s addr, addr = s.readReg rs1 + offset.signExtend 32 → addr.toNat % n = 0 → ¬BytesInMem s addr n →
    exec (i rs2 rs1 offset) s = .next (faultedAt s .storeAccessFault addr)) ∧
  (∀ rs2 rs1 offset s addr, addr = s.readReg rs1 + offset.signExtend 32 → addr.toNat % n = 0 → BytesInMem s addr n →
    ¬BytesOutsideCode s addr n → exec (i rs2 rs1 offset) s = .next (refusedAt s))

/-- A store of n bytes at an address that is no multiple of n raises StoreAddressMisaligned, wherever the address lies. -/
def StoreMisaligned (i : Reg → Reg → BitVec 12 → Instr) (n : Nat) : Prop :=
  ∀ rs2 rs1 offset s addr, addr = s.readReg rs1 + offset.signExtend 32 → addr.toNat % n ≠ 0 →
    exec (i rs2 rs1 offset) s = .next (faultedAt s .storeAddressMisaligned addr)

/-- The byte at `addr`. -/
def byteAt (m : Memory) (addr : Word) : BitVec 8 := m.read addr.toNat

/-- The two bytes at `addr`, little-endian (20_memory.md R21, R22). -/
def halfAt (m : Memory) (addr : Word) : BitVec 16 := m.read (addr + 1#32).toNat ++ m.read addr.toNat

/-- The four bytes at `addr`, little-endian (R21, R22). -/
def wordAt (m : Memory) (addr : Word) : BitVec 32 :=
  m.read (addr + 3#32).toNat ++ m.read (addr + 2#32).toNat ++ m.read (addr + 1#32).toNat ++ m.read addr.toNat

/-! ## When a step stops the run -/

/-- A conditional branch's condition holds; no condition is asked of any other instruction (R92 to R97). -/
def branchHolds (s : State) : Instr → Prop
  | .beq rs1 rs2 _ => s.readReg rs1 = s.readReg rs2
  | .bne rs1 rs2 _ => s.readReg rs1 ≠ s.readReg rs2
  | .blt rs1 rs2 _ => (s.readReg rs1).toInt < (s.readReg rs2).toInt
  | .bge rs1 rs2 _ => (s.readReg rs1).toInt ≥ (s.readReg rs2).toInt
  | .bltu rs1 rs2 _ => (s.readReg rs1).toNat < (s.readReg rs2).toNat
  | .bgeu rs1 rs2 _ => (s.readReg rs1).toNat ≥ (s.readReg rs2).toNat
  | _ => True

/-- The step from `s` executes the instruction: no earlier phase has an event (60_exceptions.md R115). -/
def Executes (s : State) (i : Instr) : Prop := Fetches s ∧ decodeWord (wordAtPc s) = .ok i

/-- The table of 60_exceptions.md R109 with the order of R115: when the step from `s` raises the cause, with what info. -/
def RaisedWhen (s : State) : Cause → Word → Prop
  | .instructionAccessFault, info => s.pc ≠ s.env.endPc ∧ ¬codeAtPc s ∧ info = s.pc
  | .illegalInstruction, info =>
    Fetches s ∧ (∀ row ∈ opcodeTable, row.fits (wordAtPc s) = false) ∧ info = wordAtPc s
  | .instructionAddressMisaligned, info =>
    ∃ i, Executes s i ∧ transferTarget s i = some info ∧ branchHolds s i ∧ info.toNat % 4 ≠ 0
  | .loadAddressMisaligned, info =>
    ∃ i, Executes s i ∧ dataAddress s i = some info ∧ i.loadBytes ≠ 0 ∧ info.toNat % i.loadBytes ≠ 0
  | .loadAccessFault, info =>
    ∃ i, Executes s i ∧ dataAddress s i = some info ∧ i.loadBytes ≠ 0 ∧ info.toNat % i.loadBytes = 0 ∧
      ¬BytesInMem s info i.loadBytes
  | .storeAddressMisaligned, info =>
    ∃ i, Executes s i ∧ dataAddress s i = some info ∧ i.storeBytes ≠ 0 ∧ info.toNat % i.storeBytes ≠ 0
  | .storeAccessFault, info =>
    ∃ i, Executes s i ∧ dataAddress s i = some info ∧ i.storeBytes ≠ 0 ∧ info.toNat % i.storeBytes = 0 ∧
      ¬BytesInMem s info i.storeBytes

/-- When the step from `s` is refused (20_memory.md R34, 60_exceptions.md R115). -/
def RefusedWhen (s : State) : Prop :=
  ∃ i addr, Executes s i ∧ dataAddress s i = some addr ∧ i.storeBytes ≠ 0 ∧ addr.toNat % i.storeBytes = 0 ∧
    BytesInMem s addr i.storeBytes ∧ ¬BytesOutsideCode s addr i.storeBytes

/-- The classes of illegal words, in the order of 30_encoding.md R47. -/
def IllegalWord (w : Word) : Prop :=
  w.extractLsb' 0 7 ∉ [0x03#7, 0x13#7, 0x17#7, 0x23#7, 0x33#7, 0x37#7, 0x63#7, 0x67#7, 0x6F#7] ∨
  (w.extractLsb' 0 7 = 0x33#7 ∧ (w.extractLsb' 25 7 ∉ [0b0000000#7, 0b0100000#7, 0b0000001#7] ∨
    (w.extractLsb' 25 7 = 0b0100000#7 ∧ w.extractLsb' 12 3 ∉ [0b000#3, 0b101#3]))) ∨
  (w.extractLsb' 0 7 = 0x13#7 ∧ ((w.extractLsb' 12 3 = 0b001#3 ∧ w.extractLsb' 25 7 ≠ 0b0000000#7) ∨
    (w.extractLsb' 12 3 = 0b101#3 ∧ w.extractLsb' 25 7 ∉ [0b0000000#7, 0b0100000#7]))) ∨
  (w.extractLsb' 0 7 = 0x67#7 ∧ w.extractLsb' 12 3 ≠ 0b000#3) ∨
  (w.extractLsb' 0 7 = 0x63#7 ∧ w.extractLsb' 12 3 ∈ [0b010#3, 0b011#3]) ∨
  (w.extractLsb' 0 7 = 0x03#7 ∧ w.extractLsb' 12 3 ∈ [0b011#3, 0b110#3, 0b111#3]) ∨
  (w.extractLsb' 0 7 = 0x23#7 ∧ w.extractLsb' 12 3 ∈ [0b011#3, 0b100#3, 0b101#3, 0b110#3, 0b111#3])

end Sys2Proof.Machine

section Statements

open Sys2Proof Sys2Proof.Machine

/-! ## Encoding -/

/-- Decode and encode agree: for every well-formed instruction, with every operand, its word decodes to it, and its four bytes
at the head of any bytes decode to it with the other bytes left over (R37 to R46). -/
def Obligations.EncodeThenDecode : Prop :=
  ∀ i : Instr, i.wellFormed = true →
    decodeWord (encode i) = .ok i ∧ ∀ rest, decode (encodeBytes i ++ rest) = .ok (i, rest)

/-- No word has two readings and no bit of a word is dropped: a word that decodes is the word of the instruction it decodes to,
which is well-formed (R37 to R46). -/
def Obligations.DecodeThenEncode : Prop :=
  ∀ (w : Word) (i : Instr), decodeWord w = .ok i → i.wellFormed = true ∧ encode i = w

/-- R46: decoding returns the unique row of the table with `(inst & mask) == match`; where there is none the step raises
IllegalInstruction with the word. The table has 45 rows. -/
def Obligations.DecodeFollowsOpcodeTable : Prop :=
  opcodeTable.length = 45 ∧
  (∀ w : Word, ∀ r ∈ opcodeTable, ∀ q ∈ opcodeTable, r.fits w = true → q.fits w = true → r = q) ∧
  (∀ (w : Word) (i : Instr), decodeWord w = .ok i →
    ∃ row ∈ opcodeTable, row.mnemonic = i.mnemonic ∧ row.fits w = true) ∧
  (∀ (w : Word), ∀ row ∈ opcodeTable, row.fits w = true → ∃ i, decodeWord w = .ok i ∧ i.mnemonic = row.mnemonic) ∧
  (∀ s, Fetches s → (∀ row ∈ opcodeTable, row.fits (wordAtPc s) = false) →
    step s = .next (faultedAt s .illegalInstruction (wordAtPc s)))

/-- R47, R48, R54: the words that are no instruction are exactly those of the classes listed, and fetching one raises
IllegalInstruction with the word, nothing else changed (R110). -/
def Obligations.IllegalWordsExactly : Prop :=
  (∀ w : Word, IllegalWord w ↔ ∃ why, decodeWord w = .error why) ∧
  (∀ s, Fetches s → IllegalWord (wordAtPc s) → step s = .next (faultedAt s .illegalInstruction (wordAtPc s)))

/-- R32, R127: every word with the opcode of FENCE (0001111), or with that of ECALL, EBREAK, the returns and the CSR
instructions (1110011), whatever its other bits, raises IllegalInstruction when it is fetched. -/
def Obligations.NoFenceAndNoSystemInstruction : Prop :=
  ∀ (s : State) (upper : BitVec 25) (op : BitVec 7), op = 0b0001111#7 ∨ op = 0b1110011#7 →
    Fetches s → wordAtPc s = upper ++ op → step s = .next (faultedAt s .illegalInstruction (upper ++ op))

/-- A few words written out from the encodings of the spec, one of each format at least, decode to the instructions they stand
for (the examples of R55, R60, R61, R83, R89, R90, R92, R103, R107). -/
def Obligations.WordsOfTheSpecDecode : Prop :=
  decodeWord 0xABCDE2B7#32 = .ok (.lui 5#5 0xABCDE#20) ∧
  decodeWord 0x002081B3#32 = .ok (.add 3#5 1#5 2#5) ∧
  decodeWord 0x7FF08193#32 = .ok (.addi 3#5 1#5 2047#12) ∧
  decodeWord 0x4040D193#32 = .ok (.srai 3#5 1#5 4#5) ∧
  decodeWord 0xFF9FF0EF#32 = .ok (.jal 1#5 (BitVec.ofInt 21 (-8))) ∧
  decodeWord 0xFFC282E7#32 = .ok (.jalr 5#5 5#5 (BitVec.ofInt 12 (-4))) ∧
  decodeWord 0xFE0008E3#32 = .ok (.beq 0#5 0#5 (BitVec.ofInt 13 (-16))) ∧
  decodeWord 0xFFC2A183#32 = .ok (.lw 3#5 5#5 (BitVec.ofInt 12 (-4))) ∧
  decodeWord 0xFE62AE23#32 = .ok (.sw 6#5 5#5 (BitVec.ofInt 12 (-4)))

/-! ## Assembly -/

/-- R51, R53: every well-formed instruction, with every operand, has a line of the form of its family, and that line assembles
to it: no operand a word can hold is out of range. -/
def Obligations.DisassembleThenAssemble : Prop :=
  ∀ i : Instr, i.wellFormed = true → assemble (disassemble i) = some i

/-- R51, R52, R53: a line that assembles stands for a well-formed instruction and is the line of that instruction, letter for
letter, so that no mnemonic, form or operand value but those listed is accepted; or it is `jal offset` or
`jalr offset(rs1)` and stands for the line with x1 as rd. -/
def Obligations.AssembleThenDisassemble : Prop :=
  ∀ (line : AsmLine) (i : Instr), assemble line = some i →
    i.wellFormed = true ∧
    (line = disassemble i ∨
      (∃ offset, line = ⟨"jal", [.num offset]⟩ ∧ disassemble i = ⟨"jal", [.reg 1, .num offset]⟩) ∨
      (∃ offset base, line = ⟨"jalr", [.mem offset base]⟩ ∧ disassemble i = ⟨"jalr", [.reg 1, .mem offset base]⟩))

/-! ## The step -/

/-- A step runs the decoded instruction (R18): where the run goes on, the pc is not `END_PC`, the four bytes at the pc are in
`CODE` and the word they make decodes to i, then i is well-formed and the step is exec of i, with nothing around it. -/
def Obligations.StepRunsDecodedInstruction : Prop :=
  ∀ s i, Fetches s → decodeWord (wordAtPc s) = .ok i → i.wellFormed = true ∧ step s = exec i s

/-- R130: at `END_PC` the run ends and nothing else changes, whatever stands at that address; no step from another address
ends it; and a run launched at `END_PC` ends before its first instruction. -/
def Obligations.RunEndsAtEndPc : Prop :=
  (∀ s, s.outcome = .running → s.pc = s.env.endPc → step s = .next { s with outcome := .ended }) ∧
  (∀ s t, s.outcome = .running → step s = .next t → t.outcome = .ended → s.pc = s.env.endPc) ∧
  (∀ l : Launch, l.resetPc = l.endPc → step (State.launch l) = .next { State.launch l with outcome := .ended })

/-- R109 with R110 to R115: a running step raises a cause with an info exactly when the table says so, the phases in their
order, is refused exactly when an aligned store inside `MEM` touches `CODE`, and ends the run exactly at `END_PC`; otherwise
it leaves the run running. -/
def Obligations.ExceptionsExactlyAsListed : Prop :=
  ∀ s, s.outcome = .running →
    (∀ cause info, step s = .next (faultedAt s cause info) ↔ RaisedWhen s cause info) ∧
    (step s = .next (refusedAt s) ↔ RefusedWhen s) ∧
    (step s = .next { s with outcome := .ended } ↔ s.pc = s.env.endPc) ∧
    ∃ t, step s = .next t ∧
      (t.outcome = .running ∨ t = { s with outcome := .ended } ∨ (∃ cause info, t = faultedAt s cause info) ∨
        t = refusedAt s)

/-- R116: exceptions and refusals are precise. When a step of a running state stops the run, the registers, memory, the pc and
the launch parameters are exactly as they were, and the outcome names the pc of that instruction. -/
def Obligations.ExceptionsArePrecise : Prop :=
  ∀ s t, s.outcome = .running → step s = .next t → t.outcome ≠ .running →
    t = { s with outcome := t.outcome } ∧
    (∀ cause info pc, t.outcome = .faulted cause info pc → pc = s.pc) ∧
    (∀ reason pc, t.outcome = .refused reason pc → pc = s.pc)

/-- The model's choice (notes/assumptions/1.md) for R108's "no further step is taken": at a terminal outcome a run stays where
it is. Ended is kept for ever; after Faulted or Refused a step answers the fault or refusal that names the outcome. -/
def Obligations.TerminalOutcomesStay : Prop :=
  (∀ s k, s.outcome = .ended → Host.Core.run Sys2Proof.core k s = .next s) ∧
  (∀ s cause info pc k, s.outcome = .faulted cause info pc →
    Host.Core.run Sys2Proof.core (k + 1) s = .fault (.exception cause info pc)) ∧
  (∀ s pc k, s.outcome = .refused .storeToCode pc →
    Host.Core.run Sys2Proof.core (k + 1) s = .refused (.storeToCode pc))

/-- No instruction's meaning stops (the model's choice of notes/assumptions/1.md makes an exception a next state): every
instruction, in every state, answers a next state, and so does every step of a state that has not faulted or been refused. -/
def Obligations.EveryInstructionAnswers : Prop :=
  (∀ (i : Instr) (s : State), ∃ t, exec i s = .next t) ∧
  (∀ s, s.outcome = .running ∨ s.outcome = .ended → ∃ t, step s = .next t)

/-- The model's placing of a word for the fetch (notes/assumptions/9.md): at an aligned pc, the next step runs the instruction
whose word was placed; registers, pc, and every byte outside the four are as before. -/
def Obligations.PlacedWordRuns : Prop :=
  ∀ (s : State) (i : Instr), s.pc.toNat % 4 = 0 → i.wellFormed = true → ∀ t, t = s.withFetchWord 32 (encode i).toNat →
    Executes t i ∧ step t = exec i t ∧ (∀ r, t.readReg r = s.readReg r) ∧ t.pc = s.pc ∧
    (∀ a, a ∉ accessAddresses s.pc 4 → t.mem.read a = s.mem.read a) ∧
    (∀ a, s.env.inMem a = true → t.env.inMem a = true)

/-! ## Registers, reset and what a run keeps -/

/-- R7, R49: x0 reads as zero in every state, whatever is written; a write to x0 changes nothing, a write to any other
register is what that register reads as, and no other register changes. An instruction whose rd is x0 runs by its ordinary
rule with its register write discarded: with another rd in the same word, the pc, memory and the outcome come out the same
(so the load is made and can fault, and the jump is taken). ADDI x0, x0, 0 does nothing but advance the pc. -/
def Obligations.RegisterZero : Prop :=
  Config.x0Zero = true ∧
  (∀ s : State, s.readReg 0#5 = 0#32) ∧
  (∀ (s : State) (v : Word), s.writeReg 0#5 v = s) ∧
  (∀ (s : State) (r q : Reg) (v : Word), r ≠ 0#5 →
    (s.writeReg r v).readReg q = if q = r then v else s.readReg q) ∧
  (∀ (upper : BitVec 20) (op : BitVec 7) (rd : BitVec 5) (i : Instr) (s : State), i.dest = some rd →
    decodeWord (upper ++ rd ++ op) = .ok i →
    ∃ j t u, decodeWord (upper ++ 0#5 ++ op) = .ok j ∧ exec j s = .next t ∧ exec i s = .next u ∧
      (∀ r, t.readReg r = s.readReg r) ∧ t.pc = u.pc ∧ t.mem = u.mem ∧ t.outcome = u.outcome ∧ t.env = u.env) ∧
  decodeWord 0x00000013#32 = .ok (.addi 0#5 0#5 0#12) ∧
  (∀ s : State, exec (.addi 0#5 0#5 0#12) s = .next { s with pc := s.pc + 4#32 })

/-- R19: after reset, for every choice of the launch parameters, x0 is zero, x1 .. x31 hold `INIT_X`, the pc `RESET_PC`,
memory `INIT_MEM` and the outcome is Running; where the launch conditions hold, the pc is a multiple of 4 and its four bytes
are in `CODE`. -/
def Obligations.ResetValues : Prop :=
  ∀ l : Launch,
    (State.launch l).readReg 0#5 = 0#32 ∧
    (∀ r : Reg, r ≠ 0#5 → (State.launch l).readReg r = l.initX[r.toNat]'r.isLt) ∧
    (State.launch l).pc = l.resetPc ∧
    (∀ a, (State.launch l).mem.read a = l.initMem.read a) ∧
    (State.launch l).outcome = .running ∧
    (l.ok = true → (State.launch l).pc.toNat % 4 = 0 ∧ codeAtPc (State.launch l))

/-- The model's choices where R19 leaves reset open (notes/assumptions/3.md to 7.md): `State.reset` has zero in every register,
pc 0x1000, zero in every byte, all of the address space in `MEM`, none of it in `CODE`, and `END_PC` 0xFFFFFFFC. The spec
states only the value of x0 and the outcome. -/
def Obligations.ResetModelChoices : Prop :=
  (∀ r, State.reset.readReg r = 0#32) ∧ State.reset.pc = 0x00001000#32 ∧ State.reset.outcome = .running ∧
  (∀ a, State.reset.mem.read a = 0#8) ∧
  (∀ a, a < 2 ^ 32 → State.reset.env.inMem a = true ∧ State.reset.env.inCode a = false) ∧
  State.reset.env.endPc = 0xFFFFFFFC#32

/-- The invariant of a run holds at reset. -/
def Obligations.InvAtReset : Prop := Invariant State.reset

/-- The invariant of a run holds after every launch that meets the launch conditions of R129. -/
def Obligations.InvAtLaunch : Prop := ∀ l : Launch, l.ok = true → Invariant (State.launch l)

/-- Every step keeps the invariant: the pc a multiple of 4 (R12), memory in canonical form and listing only addresses of `MEM`
(R16, R29), the place of x0 zero (R7). -/
def Obligations.StepKeepsInv : Prop := ∀ s t, Invariant s → step s = .next t → Invariant t

/-- R12: the pc is always a multiple of 4, its two low bits zero: at every launch that meets the launch conditions, and after
any number of steps from any state in which it is so; a jump or a taken branch to another address raises
InstructionAddressMisaligned and leaves the pc. -/
def Obligations.PcStaysAligned : Prop :=
  (∀ l : Launch, l.ok = true → (State.launch l).pc.extractLsb' 0 2 = 0b00#2) ∧
  (∀ k s t, s.pc.extractLsb' 0 2 = 0b00#2 → Host.Core.run Sys2Proof.core k s = .next t →
    t.pc.extractLsb' 0 2 = 0b00#2) ∧
  (∀ s i target, transferTarget s i = some target → branchHolds s i → target.extractLsb' 0 2 ≠ 0b00#2 →
    exec i s = .next (faultedAt s .instructionAddressMisaligned target))

/-- R34: the bytes of `CODE` are those of the launch throughout a run, from any state and for any number of steps, and so
every fetch returns the launch-time word; `MEM`, `CODE`, `END_PC` and `DIVCFG` never change; `CODE` is in `MEM`, and a load may read it;
a store that touches it is refused. -/
def Obligations.CodeNeverChanges : Prop :=
  (∀ k s t, Host.Core.run Sys2Proof.core k s = .next t →
    t.env = s.env ∧ (∀ a, s.env.inCode a = true → t.mem.read a = s.mem.read a) ∧
    ∀ pc : Word, codeAtPc { s with pc := pc } → wordAtPc { t with pc := pc } = wordAtPc { s with pc := pc }) ∧
  (∀ (e : Env) (a : Nat), e.inCode a = true → e.inMem a = true) ∧
  (LoadsFromCode .lb 1 (fun m addr => (byteAt m addr).signExtend 32) ∧
    LoadsFromCode .lh 2 (fun m addr => (halfAt m addr).signExtend 32) ∧
    LoadsFromCode .lbu 1 (fun m addr => (byteAt m addr).zeroExtend 32) ∧
    LoadsFromCode .lhu 2 (fun m addr => (halfAt m addr).zeroExtend 32) ∧
    LoadsFromCode .lw 4 (fun m addr => wordAt m addr)) ∧
  (∀ s i addr, i.storeBytes ≠ 0 → dataAddress s i = some addr → addr.toNat % i.storeBytes = 0 →
    BytesInMem s addr i.storeBytes → (∃ a ∈ storedAddresses s i, s.env.inCode a = true) →
    exec i s = .next (refusedAt s))

/-! ## Results, instruction by instruction -/

/-- LUI (R55) and AUIPC (R56): the 20 bits of the instruction at bits 31:12, or that added to the address of the
instruction. -/
def Obligations.LoadConstant : Prop :=
  (WordsU 0b0110111#7 .lui ∧
    ∀ rd imm s, ∃ t, exec (.lui rd imm) s = .next t ∧ Retires s t rd (imm ++ 0#12)) ∧
  (WordsU 0b0010111#7 .auipc ∧
    ∀ rd imm s, ∃ t, exec (.auipc rd imm) s = .next t ∧
      Retires s t rd (to32 ((s.pc.toNat : Int) + (imm.toNat : Int) * 4096)))

/-- ADD (R60), ADDI (R61), SUB (R62) with the law of R57: the low 32 bits of the exact sum or difference, the operands read
as unsigned or as signed. -/
def Obligations.AddAndSubtract : Prop :=
  (WordsR 0b0000000#7 0b000#3 0b0110011#7 .add ∧
    ComputesR .add fun a b v => v = to32 ((a.toNat : Int) + b.toNat) ∧ v = to32 (a.toInt + b.toInt)) ∧
  (WordsI 0b000#3 0b0010011#7 .addi ∧
    ComputesI .addi fun a b v => v = to32 ((a.toNat : Int) + b.toNat) ∧ v = to32 (a.toInt + b.toInt)) ∧
  (WordsR 0b0100000#7 0b000#3 0b0110011#7 .sub ∧
    ComputesR .sub fun a b v => v = to32 ((a.toNat : Int) - b.toNat) ∧ v = to32 (a.toInt - b.toInt))

/-- MUL (R63), MULH (R64), MULHSU (R65), MULHU (R66) with the table of R58: bits 31:0 of the exact product, either reading of
the factors, or its bits 63:32, `floor(P / 2^32)` (`/` on integers rounds toward minus infinity for this divisor); and the
same as the half of the 64-bit product of the factors extended by sign or by zeros. -/
def Obligations.Multiply : Prop :=
  (WordsR 0b0000001#7 0b000#3 0b0110011#7 .mul ∧
    ComputesR .mul fun a b v => v = to32 ((a.toNat : Int) * b.toNat) ∧ v = to32 (a.toInt * b.toInt) ∧
      v = (a.signExtend 64 * b.signExtend 64).extractLsb' 0 32) ∧
  (WordsR 0b0000001#7 0b001#3 0b0110011#7 .mulh ∧
    ComputesR .mulh fun a b v => v = to32 (a.toInt * b.toInt / 2 ^ 32) ∧
      v = (a.signExtend 64 * b.signExtend 64).extractLsb' 32 32) ∧
  (WordsR 0b0000001#7 0b010#3 0b0110011#7 .mulhsu ∧
    ComputesR .mulhsu fun a b v => v = to32 (a.toInt * (b.toNat : Int) / 2 ^ 32) ∧
      v = (a.signExtend 64 * b.zeroExtend 64).extractLsb' 32 32) ∧
  (WordsR 0b0000001#7 0b011#3 0b0110011#7 .mulhu ∧
    ComputesR .mulhu fun a b v => v = to32 ((a.toNat : Int) * b.toNat / 2 ^ 32) ∧
      v = (a.zeroExtend 64 * b.zeroExtend 64).extractLsb' 32 32)

/-- DIV (R67), DIVU (R68), REM (R69), REMU (R70) with `DIVCFG` at its default, for every dividend and every divisor, zero and
the signed overflow among them; none raises an exception. `DivisionLaw` says the same for every `DIVCFG`. -/
def Obligations.DivideAndRemainder : Prop :=
  (WordsR 0b0000001#7 0b100#3 0b0110011#7 .div ∧
    DividesByDefault .div fun a b =>
      if b = 0#32 then 0xFFFFFFFF#32
      else if a = 0x80000000#32 ∧ b = 0xFFFFFFFF#32 then 0x80000000#32
      else to32 (a.toInt.tdiv b.toInt)) ∧
  (WordsR 0b0000001#7 0b101#3 0b0110011#7 .divu ∧
    DividesByDefault .divu fun a b => if b = 0#32 then 0xFFFFFFFF#32 else to32 ((a.toNat : Int) / b.toNat)) ∧
  (WordsR 0b0000001#7 0b110#3 0b0110011#7 .rem ∧
    DividesByDefault .rem fun a b =>
      if b = 0#32 then a
      else if a = 0x80000000#32 ∧ b = 0xFFFFFFFF#32 then 0x00000000#32
      else to32 (a.toInt - b.toInt * a.toInt.tdiv b.toInt)) ∧
  (WordsR 0b0000001#7 0b111#3 0b0110011#7 .remu ∧
    DividesByDefault .remu fun a b =>
      if b = 0#32 then a else to32 ((a.toNat : Int) - b.toNat * ((a.toNat : Int) / b.toNat)))

/-- R59: what the four instructions write is, in every state, what its record `DIVCFG` gives; the record obeys the first table
wherever the divisor is not zero and the quotient does not overflow, and there the dividend is divisor times quotient plus
remainder, the remainder smaller than the divisor and zero or of the dividend's sign; the default has the values of the
second table at the corners, and `State.reset` has the default. -/
def Obligations.DivisionLaw : Prop :=
  (DividesBy .div DivCfg.div ∧ DividesBy .divu DivCfg.divu ∧ DividesBy .rem DivCfg.rem ∧ DividesBy .remu DivCfg.remu) ∧
  (∀ s : State, s.division.Ordinary) ∧
  (∀ (s : State) (a b : Word), b ≠ 0#32 → ¬(a = 0x80000000#32 ∧ b = 0xFFFFFFFF#32) →
    a.toInt = b.toInt * (s.division.div a b).toInt + (s.division.rem a b).toInt ∧
    (s.division.rem a b).toInt.natAbs < b.toInt.natAbs ∧
    ((s.division.rem a b).toInt = 0 ∨ ((s.division.rem a b).toInt < 0 ↔ a.toInt < 0))) ∧
  (∀ (s : State) (a b : Word), b ≠ 0#32 →
    a.toNat = b.toNat * (s.division.divu a b).toNat + (s.division.remu a b).toNat ∧
    (s.division.remu a b).toNat < b.toNat) ∧
  (∀ a : Word, divCfg.div a 0#32 = 0xFFFFFFFF#32 ∧ divCfg.rem a 0#32 = a ∧
    divCfg.divu a 0#32 = 0xFFFFFFFF#32 ∧ divCfg.remu a 0#32 = a) ∧
  (divCfg.div 0x80000000#32 0xFFFFFFFF#32 = 0x80000000#32 ∧ divCfg.rem 0x80000000#32 0xFFFFFFFF#32 = 0#32 ∧
    divCfg.divu 0x80000000#32 0xFFFFFFFF#32 = 0#32 ∧ divCfg.remu 0x80000000#32 0xFFFFFFFF#32 = 0x80000000#32) ∧
  State.reset.division = divCfg

/-- R5, R59: `DIVCFG` is open. Every record that obeys the ordinary law is the one of some launch, whatever the launch's other
parameters, and over any run from that launch no step changes it, so that each of the four instructions always writes what
the record gives; a statement over every state thus holds for every `DIVCFG`. -/
def Obligations.EveryDivCfgCanBeLaunched : Prop :=
  ∀ c : DivCfg, c.Ordinary → ∃ o : DivOverrides, ∀ (l : Launch) (k : Nat) (s : State), l.divOverrides = o →
    Host.Core.run Sys2Proof.core k (State.launch l) = .next s →
    s.division = c ∧
    ∀ rd rs1 rs2,
      (∃ t, exec (.div rd rs1 rs2) s = .next t ∧ Retires s t rd (c.div (s.readReg rs1) (s.readReg rs2))) ∧
      (∃ t, exec (.divu rd rs1 rs2) s = .next t ∧ Retires s t rd (c.divu (s.readReg rs1) (s.readReg rs2))) ∧
      (∃ t, exec (.rem rd rs1 rs2) s = .next t ∧ Retires s t rd (c.rem (s.readReg rs1) (s.readReg rs2))) ∧
      (∃ t, exec (.remu rd rs1 rs2) s = .next t ∧ Retires s t rd (c.remu (s.readReg rs1) (s.readReg rs2)))

/-- XOR, XORI, OR, ORI, AND, ANDI (R71 to R76): bit k of the result depends on bits k of the operands alone, an immediate
being sign-extended. ANDI is an AND (90_conflicts.md C1). -/
def Obligations.BooleanLogic : Prop :=
  (WordsR 0b0000000#7 0b100#3 0b0110011#7 .xor ∧
    ComputesR .xor fun a b v => ∀ k, k < 32 → v.getLsbD k = (a.getLsbD k != b.getLsbD k)) ∧
  (WordsI 0b100#3 0b0010011#7 .xori ∧
    ComputesI .xori fun a b v => ∀ k, k < 32 → v.getLsbD k = (a.getLsbD k != b.getLsbD k)) ∧
  (WordsR 0b0000000#7 0b110#3 0b0110011#7 .or ∧
    ComputesR .or fun a b v => ∀ k, k < 32 → v.getLsbD k = (a.getLsbD k || b.getLsbD k)) ∧
  (WordsI 0b110#3 0b0010011#7 .ori ∧
    ComputesI .ori fun a b v => ∀ k, k < 32 → v.getLsbD k = (a.getLsbD k || b.getLsbD k)) ∧
  (WordsR 0b0000000#7 0b111#3 0b0110011#7 .and ∧
    ComputesR .and fun a b v => ∀ k, k < 32 → v.getLsbD k = (a.getLsbD k && b.getLsbD k)) ∧
  (WordsI 0b111#3 0b0010011#7 .andi ∧
    ComputesI .andi fun a b v => ∀ k, k < 32 → v.getLsbD k = (a.getLsbD k && b.getLsbD k))

/-- SLL, SLLI, SRL, SRLI, SRA, SRAI (R78 to R83) with the law of R77. -/
def Obligations.Shifts : Prop :=
  (WordsR 0b0000000#7 0b001#3 0b0110011#7 .sll ∧ ShiftsR .sll ShiftedLeft) ∧
  (WordsR 0b0000000#7 0b001#3 0b0010011#7 .slli ∧ ShiftsI .slli ShiftedLeft) ∧
  (WordsR 0b0000000#7 0b101#3 0b0110011#7 .srl ∧ ShiftsR .srl ShiftedRight) ∧
  (WordsR 0b0000000#7 0b101#3 0b0010011#7 .srli ∧ ShiftsI .srli ShiftedRight) ∧
  (WordsR 0b0100000#7 0b101#3 0b0110011#7 .sra ∧ ShiftsR .sra ShiftedRightSigned) ∧
  (WordsR 0b0100000#7 0b101#3 0b0010011#7 .srai ∧ ShiftsI .srai ShiftedRightSigned)

/-- SLT, SLTI, SLTIU, SLTU (R84 to R87): 1 where the first operand is less, signed or unsigned, else 0; SLTIU's immediate is
sign-extended before the unsigned comparison. -/
def Obligations.Compare : Prop :=
  (WordsR 0b0000000#7 0b010#3 0b0110011#7 .slt ∧
    ComputesR .slt fun a b v => v = if a.toInt < b.toInt then 0x00000001#32 else 0x00000000#32) ∧
  (WordsI 0b010#3 0b0010011#7 .slti ∧
    ComputesI .slti fun a b v => v = if a.toInt < b.toInt then 0x00000001#32 else 0x00000000#32) ∧
  (WordsI 0b011#3 0b0010011#7 .sltiu ∧
    ComputesI .sltiu fun a b v => v = if a.toNat < b.toNat then 0x00000001#32 else 0x00000000#32) ∧
  (WordsR 0b0000000#7 0b011#3 0b0110011#7 .sltu ∧
    ComputesR .sltu fun a b v => v = if a.toNat < b.toNat then 0x00000001#32 else 0x00000000#32)

/-- JAL (R89) and JALR (R90): the link pc + 4 in rd (nowhere for x0) and the pc at the target, relative to the jump's own
address or to the old value of rs1 with bit 0 cleared; a target that is no multiple of 4 raises
InstructionAddressMisaligned and writes neither. -/
def Obligations.Jumps : Prop :=
  (WordsJ .jal ∧
    (∀ rd offset s target, target = s.pc + offset.signExtend 32 → target.toNat % 4 = 0 →
      ∃ t, exec (.jal rd offset) s = .next t ∧ Becomes s t (withReg s rd (s.pc + 4#32)) target) ∧
    (∀ rd offset s target, target = s.pc + offset.signExtend 32 → target.toNat % 4 ≠ 0 →
      exec (.jal rd offset) s = .next (faultedAt s .instructionAddressMisaligned target))) ∧
  (WordsI 0b000#3 0b1100111#7 .jalr ∧
    (∀ rd rs1 offset s target, target = (s.readReg rs1 + offset.signExtend 32) &&& 0xFFFFFFFE#32 →
      target.toNat % 4 = 0 →
      ∃ t, exec (.jalr rd rs1 offset) s = .next t ∧ Becomes s t (withReg s rd (s.pc + 4#32)) target) ∧
    (∀ rd rs1 offset s target, target = (s.readReg rs1 + offset.signExtend 32) &&& 0xFFFFFFFE#32 →
      target.toNat % 4 ≠ 0 →
      exec (.jalr rd rs1 offset) s = .next (faultedAt s .instructionAddressMisaligned target)))

/-- The target of a jump or taken branch is not checked against the address map (R88, R91): from a running state, a transfer to
a multiple of 4 outside `CODE` that is not `END_PC` completes, link and all, and the step after it raises
InstructionAccessFault at the new pc. -/
def Obligations.TransferOutOfCode : Prop :=
  ∀ s i target, Executes s i → transferTarget s i = some target → branchHolds s i → target.toNat % 4 = 0 →
    s.env.inCode target.toNat = false → target ≠ s.env.endPc →
    ∃ t, step s = .next t ∧ t.pc = target ∧ (∀ rd, i.dest = some rd → rd ≠ 0#5 → t.readReg rd = s.pc + 4#32) ∧
      step t = .next (faultedAt t .instructionAccessFault target)

/-- BEQ, BNE, BLT, BGE, BLTU, BGEU (R92 to R97). -/
def Obligations.ConditionalBranches : Prop :=
  (WordsB 0b000#3 .beq ∧ Branches .beq fun a b => a = b) ∧
  (WordsB 0b001#3 .bne ∧ Branches .bne fun a b => a ≠ b) ∧
  (WordsB 0b100#3 .blt ∧ Branches .blt fun a b => a.toInt < b.toInt) ∧
  (WordsB 0b101#3 .bge ∧ Branches .bge fun a b => a.toInt ≥ b.toInt) ∧
  (WordsB 0b110#3 .bltu ∧ Branches .bltu fun a b => a.toNat < b.toNat) ∧
  (WordsB 0b111#3 .bgeu ∧ Branches .bgeu fun a b => a.toNat ≥ b.toNat)

/-- LB, LH, LBU, LHU, LW (R99 to R103), with `MemRead` (R22): the value, extended by sign or zeros, and each exception. LB and
LBU are never misaligned. -/
def Obligations.Loads : Prop :=
  (WordsI 0b000#3 0b0000011#7 .lb ∧ LoadsAligned .lb 1 fun m addr => (byteAt m addr).signExtend 32) ∧
  (WordsI 0b001#3 0b0000011#7 .lh ∧ LoadsAligned .lh 2 (fun m addr => (halfAt m addr).signExtend 32) ∧
    LoadMisaligned .lh 2) ∧
  (WordsI 0b100#3 0b0000011#7 .lbu ∧ LoadsAligned .lbu 1 fun m addr => (byteAt m addr).zeroExtend 32) ∧
  (WordsI 0b101#3 0b0000011#7 .lhu ∧ LoadsAligned .lhu 2 (fun m addr => (halfAt m addr).zeroExtend 32) ∧
    LoadMisaligned .lhu 2) ∧
  (WordsI 0b010#3 0b0000011#7 .lw ∧ LoadsAligned .lw 4 (fun m addr => wordAt m addr) ∧ LoadMisaligned .lw 4)

/-- SB, SH, SW (R105 to R107), with `MemWrite` (R23): the low bytes of x[rs2] stored, bits 7:0 at the lowest address, no other
byte and no register changed; each exception and the refusal. SB is never misaligned. -/
def Obligations.StoreInstructions : Prop :=
  (WordsS 0b000#3 .sb ∧ StoresAligned .sb 1) ∧
  (WordsS 0b001#3 .sh ∧ StoresAligned .sh 2 ∧ StoreMisaligned .sh 2) ∧
  (WordsS 0b010#3 .sw ∧ StoresAligned .sw 4 ∧ StoreMisaligned .sw 4)

/-- R21: byte order is little-endian. After SW has stored at a, LBU at a + k gives byte k of the word, LHU at a and at a + 2
its halves, LW at a the word; and a fetch takes the byte at the lowest address as bits 7:0. -/
def Obligations.LittleEndianMixedWidths : Prop :=
  (∀ rs2 rs1 offset s t, s.outcome = .running → exec (.sw rs2 rs1 offset) s = .next t → t.outcome = .running →
    (∀ rd base o k, k < 4 → effectiveAddress t base o = effectiveAddress s rs1 offset + BitVec.ofNat 32 k →
      ∃ u, exec (.lbu rd base o) t = .next u ∧
        Retires t u rd (((s.readReg rs2).extractLsb' (8 * k) 8).zeroExtend 32)) ∧
    (∀ rd base o k, k = 0 ∨ k = 2 → effectiveAddress t base o = effectiveAddress s rs1 offset + BitVec.ofNat 32 k →
      ∃ u, exec (.lhu rd base o) t = .next u ∧
        Retires t u rd (((s.readReg rs2).extractLsb' (8 * k) 16).zeroExtend 32)) ∧
    (∀ rd base o, effectiveAddress t base o = effectiveAddress s rs1 offset →
      ∃ u, exec (.lw rd base o) t = .next u ∧ Retires t u rd (s.readReg rs2))) ∧
  (∀ s, codeAtPc s → s.fetch = .ok (wordAtPc s))

/-- R36: the address of a load or store is the exact sum modulo 2^32, and no access that passes the alignment check straddles
the top of the address space. -/
def Obligations.EffectiveAddressWraps : Prop :=
  (∀ s rs1 (offset : BitVec 12),
    effectiveAddress s rs1 offset = to32 (((s.readReg rs1).toNat : Int) + offset.toInt) ∧
    (∀ rd, ∀ i ∈ [Instr.lb rd rs1 offset, .lh rd rs1 offset, .lbu rd rs1 offset, .lhu rd rs1 offset, .lw rd rs1 offset,
        .sb rd rs1 offset, .sh rd rs1 offset, .sw rd rs1 offset],
      dataAddress s i = some (to32 (((s.readReg rs1).toNat : Int) + offset.toInt)))) ∧
  (∀ (addr : Word) (n : Nat), n ∈ [1, 2, 4] → addr.toNat % n = 0 →
    accessAddresses addr n = (List.range n).map fun k => addr.toNat + k)

/-- R25: a misaligned LH, LHU, LW, SH or SW raises its exception with the address and has no other effect; no load or store of
one byte, and no aligned one, ever raises it. -/
def Obligations.DataAlignment : Prop :=
  (∀ s i addr, dataAddress s i = some addr → i.loadBytes ≠ 0 → addr.toNat % i.loadBytes ≠ 0 →
    exec i s = .next (faultedAt s .loadAddressMisaligned addr)) ∧
  (∀ s i addr, dataAddress s i = some addr → i.storeBytes ≠ 0 → addr.toNat % i.storeBytes ≠ 0 →
    exec i s = .next (faultedAt s .storeAddressMisaligned addr)) ∧
  (∀ s i t info pc, s.outcome = .running → exec i s = .next t → t.outcome = .faulted .loadAddressMisaligned info pc →
    i.loadBytes ∈ [2, 4] ∧ dataAddress s i = some info ∧ info.toNat % i.loadBytes ≠ 0) ∧
  (∀ s i t info pc, s.outcome = .running → exec i s = .next t → t.outcome = .faulted .storeAddressMisaligned info pc →
    i.storeBytes ∈ [2, 4] ∧ dataAddress s i = some info ∧ info.toNat % i.storeBytes ≠ 0)

/-- R114: an aligned load or store one of whose bytes, the lowest or a higher one, is outside `MEM` raises its access fault
with the lowest address of the access, and nothing is written. -/
def Obligations.AccessOutsideMem : Prop :=
  (∀ s i addr k, dataAddress s i = some addr → k < i.loadBytes → addr.toNat % i.loadBytes = 0 →
    s.env.inMem (addr + BitVec.ofNat 32 k).toNat = false →
    exec i s = .next (faultedAt s .loadAccessFault addr)) ∧
  (∀ s i addr k, dataAddress s i = some addr → k < i.storeBytes → addr.toNat % i.storeBytes = 0 →
    s.env.inMem (addr + BitVec.ofNat 32 k).toNat = false →
    exec i s = .next (faultedAt s .storeAccessFault addr))

/-! ## What instructions leave alone -/

/-- The frame of every instruction: no register but its destination changes; no byte of memory but those at the addresses it
stores to, computed from the state before (SB, SH, SW; none for any other); the launch parameters never; and the outcome
only by raising an exception or by a refusal at this pc, and then nothing else at all. -/
def Obligations.FrameOfEveryInstruction : Prop :=
  ∀ (i : Instr) (s t : State), exec i s = .next t →
    (∀ r, i.dest ≠ some r → t.readReg r = s.readReg r) ∧
    (∀ a, a ∉ storedAddresses s i → t.mem.read a = s.mem.read a) ∧
    t.env = s.env ∧
    (t.outcome = s.outcome ∨ (∃ cause info, t = faultedAt s cause info) ∨ t = refusedAt s)

/-- R11: an instruction that completes leaves the pc at pc + 4 modulo 2^32, but for a jump or a branch whose condition holds,
which leaves it at the target. -/
def Obligations.PcAdvance : Prop :=
  (∀ (i : Instr) (s t : State), s.outcome = .running → exec i s = .next t → t.outcome = .running →
    (∀ target, transferTarget s i = some target → branchHolds s i → t.pc = target) ∧
    (∀ target, transferTarget s i = some target → ¬branchHolds s i → t.pc = s.pc + 4#32) ∧
    (transferTarget s i = none → t.pc = s.pc + 4#32)) ∧
  (∀ i : Instr, i.isTransfer = true ↔ ∀ s, (transferTarget s i).isSome = true) ∧
  (0xFFFFFFFC#32 + 4#32 : Word) = 0x00000000#32

/-- R9's table: an instruction reads no register but its sources and writes none but its destination. Two running states that agree on
the sources, the pc, memory and the launch parameters, and on nothing else, are taken to states that agree on the outcome,
the pc, memory and, where the instruction completes, the destination. -/
def Obligations.OnlyTheSourcesMatter : Prop :=
  ∀ (i : Instr) (s u : State), s.outcome = .running → u.outcome = .running → u.pc = s.pc → u.mem = s.mem → u.env = s.env →
    (∀ r ∈ i.sources, u.readReg r = s.readReg r) →
    ∃ t v, exec i s = .next t ∧ exec i u = .next v ∧ v.outcome = t.outcome ∧ v.pc = t.pc ∧ v.mem = t.mem ∧
      (t.outcome = .running → ∀ r, i.dest = some r → v.readReg r = t.readReg r) ∧
      (∀ r, i.dest ≠ some r → t.readReg r = s.readReg r ∧ v.readReg r = u.readReg r)

/-- R31, the part that one run shows: over any run a byte of memory reads as the latest store left it, since no step changes
a byte but a store that completes, to an address of `MEM` outside `CODE`, and that byte then holds its part of x[rs2]. -/
def Obligations.OnlyStoresChangeMemory : Prop :=
  ∀ s t a, step s = .next t → t.mem.read a ≠ s.mem.read a →
    s.env.inMem a = true ∧ s.env.inCode a = false ∧
    ∃ rs2 rs1 offset i k, Executes s i ∧ (i = .sb rs2 rs1 offset ∨ i = .sh rs2 rs1 offset ∨ i = .sw rs2 rs1 offset) ∧
      k < i.storeBytes ∧ a = (effectiveAddress s rs1 offset + BitVec.ofNat 32 k).toNat ∧
      t.mem.read a = (s.readReg rs2).extractLsb' (8 * k) 8

/-- R130's run without end: a jump to itself in `CODE`, JAL x0, 0, at a pc that is not `END_PC`, leaves the state as it is,
for any number of steps. -/
def Obligations.JumpToItselfRunsForEver : Prop :=
  ∀ s k, s.pc.toNat % 4 = 0 → Fetches s → wordAtPc s = 0x0000006F#32 → Host.Core.run Sys2Proof.core k s = .next s

end Statements
end

