-- ==== Sys2Proof/Laws/State.lean ====
section
/-! SUPPORT. One lemma for each field of the state under each named update, so that no proof unfolds a record update. -/

namespace Sys2Proof.Machine

@[simp] theorem State.setPc_x (s : State) (target : Word) : (s.setPc target).x = s.x := rfl
@[simp] theorem State.setPc_pc (s : State) (target : Word) : (s.setPc target).pc = target := rfl
@[simp] theorem State.setPc_mem (s : State) (target : Word) : (s.setPc target).mem = s.mem := rfl
@[simp] theorem State.setPc_outcome (s : State) (target : Word) : (s.setPc target).outcome = s.outcome := rfl
@[simp] theorem State.setPc_env (s : State) (target : Word) : (s.setPc target).env = s.env := rfl

@[simp] theorem State.advance_x (s : State) : s.advance.x = s.x := rfl
@[simp] theorem State.advance_pc (s : State) : s.advance.pc = s.pc + 4#32 := rfl
@[simp] theorem State.advance_mem (s : State) : s.advance.mem = s.mem := rfl
@[simp] theorem State.advance_outcome (s : State) : s.advance.outcome = s.outcome := rfl
@[simp] theorem State.advance_env (s : State) : s.advance.env = s.env := rfl

@[simp] theorem State.raise_x (s : State) (cause : Cause) (info : Word) : (s.raise cause info).x = s.x := rfl
@[simp] theorem State.raise_pc (s : State) (cause : Cause) (info : Word) : (s.raise cause info).pc = s.pc := rfl
@[simp] theorem State.raise_mem (s : State) (cause : Cause) (info : Word) : (s.raise cause info).mem = s.mem := rfl
@[simp] theorem State.raise_outcome (s : State) (cause : Cause) (info : Word) : (s.raise cause info).outcome = .faulted cause info s.pc := rfl
@[simp] theorem State.raise_env (s : State) (cause : Cause) (info : Word) : (s.raise cause info).env = s.env := rfl

@[simp] theorem State.refuse_x (s : State) (reason : RefusedReason) : (s.refuse reason).x = s.x := rfl
@[simp] theorem State.refuse_pc (s : State) (reason : RefusedReason) : (s.refuse reason).pc = s.pc := rfl
@[simp] theorem State.refuse_mem (s : State) (reason : RefusedReason) : (s.refuse reason).mem = s.mem := rfl
@[simp] theorem State.refuse_outcome (s : State) (reason : RefusedReason) : (s.refuse reason).outcome = .refused reason s.pc := rfl
@[simp] theorem State.refuse_env (s : State) (reason : RefusedReason) : (s.refuse reason).env = s.env := rfl

@[simp] theorem State.finish_x (s : State) : s.finish.x = s.x := rfl
@[simp] theorem State.finish_pc (s : State) : s.finish.pc = s.pc := rfl
@[simp] theorem State.finish_mem (s : State) : s.finish.mem = s.mem := rfl
@[simp] theorem State.finish_outcome (s : State) : s.finish.outcome = .ended := rfl
@[simp] theorem State.finish_env (s : State) : s.finish.env = s.env := rfl

@[simp] theorem State.poke_x (s : State) (addr : Word) (n : Nat) (v : BitVec (8 * n)) : (s.poke addr n v).x = s.x := rfl
@[simp] theorem State.poke_pc (s : State) (addr : Word) (n : Nat) (v : BitVec (8 * n)) : (s.poke addr n v).pc = s.pc := rfl
@[simp] theorem State.poke_mem (s : State) (addr : Word) (n : Nat) (v : BitVec (8 * n)) : (s.poke addr n v).mem = s.mem.writeAll ((accessAddresses addr n).zip (bytesOfValue n v)) := rfl
@[simp] theorem State.poke_outcome (s : State) (addr : Word) (n : Nat) (v : BitVec (8 * n)) : (s.poke addr n v).outcome = s.outcome := rfl
@[simp] theorem State.poke_env (s : State) (addr : Word) (n : Nat) (v : BitVec (8 * n)) : (s.poke addr n v).env = s.env := rfl

@[simp] theorem State.writeReg_pc (s : State) (r : Reg) (v : Word) : (s.writeReg r v).pc = s.pc := by
  unfold State.writeReg; split <;> rfl
@[simp] theorem State.writeReg_mem (s : State) (r : Reg) (v : Word) : (s.writeReg r v).mem = s.mem := by
  unfold State.writeReg; split <;> rfl
@[simp] theorem State.writeReg_outcome (s : State) (r : Reg) (v : Word) : (s.writeReg r v).outcome = s.outcome := by
  unfold State.writeReg; split <;> rfl
@[simp] theorem State.writeReg_env (s : State) (r : Reg) (v : Word) : (s.writeReg r v).env = s.env := by
  unfold State.writeReg; split <;> rfl

@[simp] theorem State.retire_pc (s : State) (rd : Reg) (v : Word) : (s.retire rd v).pc = s.pc + 4#32 := by
  simp [State.retire]
@[simp] theorem State.retire_mem (s : State) (rd : Reg) (v : Word) : (s.retire rd v).mem = s.mem := by
  simp [State.retire]
@[simp] theorem State.retire_outcome (s : State) (rd : Reg) (v : Word) : (s.retire rd v).outcome = s.outcome := by
  simp [State.retire]
@[simp] theorem State.retire_env (s : State) (rd : Reg) (v : Word) : (s.retire rd v).env = s.env := by
  simp [State.retire]

@[simp] theorem State.nextPc_eq (s : State) : s.nextPc = s.pc + 4#32 := rfl

@[simp] theorem State.reset_pc : State.reset.pc = 0x00001000#32 := rfl
@[simp] theorem State.reset_mem : State.reset.mem = [] := rfl
@[simp] theorem State.reset_outcome : State.reset.outcome = .running := rfl

/-- Reset's memory has the canonical form. -/
theorem State.reset_mem_wf : State.reset.mem.wf := by decide

end Sys2Proof.Machine
end

