-- ==== Sys2Proof/Laws/Memory.lean ====
section
/-! SUPPORT. Memory: a read after a write, for every list of cells, and the canonical form, which every operation keeps
(10_state.md R16; 20_memory.md R28). -/

namespace Sys2Proof.Machine

@[simp] theorem Memory.read_nil (a : Nat) : Memory.read [] a = unlistedByte := rfl

@[simp] theorem Memory.read_cons (c : Host.Cell) (m : Memory) (a : Nat) :
    Memory.read (c :: m) a = if c.1 = a then c.2 else Memory.read m a := rfl

/-- Reading after the entries of an address are taken out. -/
theorem Memory.read_erase (m : Memory) (a b : Nat) :
    (m.erase a).read b = if a = b then unlistedByte else m.read b := by
  induction m with
  | nil => simp [Memory.erase]
  | cons c m ih =>
    simp only [Memory.erase, List.filter_cons] at ih ⊢
    by_cases hc : c.1 = a
    · by_cases hb : a = b <;> simp_all
    · by_cases hb : c.1 = b
      · have : a ≠ b := fun h => hc (hb.trans h.symm)
        simp_all
      · simp_all

/-- Reading after an entry is put into a memory that has none for its address. -/
theorem Memory.read_insert (m : Memory) (a b : Nat) (v : Byte) (h : ∀ c ∈ m, c.1 ≠ a) :
    (m.insert a v).read b = if a = b then v else m.read b := by
  induction m with
  | nil => simp [Memory.insert]
  | cons c m ih =>
    have hm : ∀ d ∈ m, d.1 ≠ a := fun d hd => h d (List.mem_cons_of_mem _ hd)
    by_cases hlt : a < c.1
    · simp [Memory.insert, hlt]
    · have hc : c.1 ≠ a := h c (List.mem_cons_self ..)
      by_cases hb : c.1 = b
      · have : a ≠ b := fun h => hc (hb.trans h.symm)
        rw [Memory.insert, if_neg hlt, Memory.read_cons, if_pos hb, if_neg this, Memory.read_cons, if_pos hb]
      · simp [Memory.insert, hlt, hb, ih hm]

/-- No entry for an address is left once it is taken out. -/
theorem Memory.mem_erase (m : Memory) (a : Nat) (c : Host.Cell) : c ∈ m.erase a ↔ c ∈ m ∧ c.1 ≠ a := by
  simp [Memory.erase]

/-- A read after a write: the byte written at its address, the old byte elsewhere; for every memory. -/
theorem Memory.read_write (m : Memory) (a b : Nat) (v : Byte) :
    (m.write a v).read b = if a = b then v else m.read b := by
  unfold Memory.write
  split
  · next h => rw [Memory.read_erase, h]
  · rw [Memory.read_insert _ _ _ _ fun c hc => ((Memory.mem_erase m a c).1 hc).2, Memory.read_erase]
    split <;> rfl

/-- The entries after one is put in: the new one and the old ones. -/
theorem Memory.mem_insert (m : Memory) (a : Nat) (v : Byte) (c : Host.Cell) :
    c ∈ m.insert a v ↔ c = (a, v) ∨ c ∈ m := by
  induction m with
  | nil => simp [Memory.insert]
  | cons d m ih =>
    by_cases h : a < d.1
    · simp [Memory.insert, h]
    · simp only [Memory.insert, h, if_false, List.mem_cons, ih]; tauto

/-- The entries after a write: the new one, unless it is the unlisted byte, and the old ones of other addresses. -/
theorem Memory.mem_write (m : Memory) (a : Nat) (v : Byte) (c : Host.Cell) (h : c ∈ m.write a v) :
    (c = (a, v) ∧ v ≠ unlistedByte) ∨ (c ∈ m ∧ c.1 ≠ a) := by
  unfold Memory.write at h
  split at h
  · exact .inr ((Memory.mem_erase m a c).1 h)
  · next hv =>
    rcases (Memory.mem_insert _ _ _ _).1 h with h | h
    · exact .inl ⟨h, hv⟩
    · exact .inr ((Memory.mem_erase m a c).1 h)

/-- Taking entries out keeps the addresses rising. -/
theorem Memory.erase_pairwise (m : Memory) (a : Nat) (h : m.Pairwise fun c d => c.1 < d.1) :
    (m.erase a).Pairwise fun c d => c.1 < d.1 := h.filter _

/-- Putting an entry of a new address in keeps the addresses rising. -/
theorem Memory.insert_pairwise (m : Memory) (a : Nat) (v : Byte) (h : m.Pairwise fun c d => c.1 < d.1)
    (hn : ∀ c ∈ m, c.1 ≠ a) : (m.insert a v).Pairwise fun c d => c.1 < d.1 := by
  induction m with
  | nil => simp [Memory.insert]
  | cons c m ih =>
    obtain ⟨hc, hm⟩ := List.pairwise_cons.1 h
    by_cases hlt : a < c.1
    · simp only [Memory.insert, hlt, if_true]
      refine List.pairwise_cons.2 ⟨fun d hd => ?_, h⟩
      rcases List.mem_cons.1 hd with rfl | hd
      · exact hlt
      · exact hlt.trans (hc d hd)
    · simp only [Memory.insert, hlt, if_false]
      refine List.pairwise_cons.2 ⟨fun d hd => ?_, ih hm fun d hd => hn d (List.mem_cons_of_mem _ hd)⟩
      rcases (Memory.mem_insert _ _ _ _).1 hd with rfl | hd
      · have := hn c (List.mem_cons_self ..)
        simp only; omega
      · exact hc d hd

/-- A write to an address of the address space keeps the canonical form. -/
theorem Memory.write_wf (m : Memory) (a : Nat) (v : Byte) (h : m.wf) (ha : a < 2 ^ 32) : (m.write a v).wf := by
  refine ⟨?_, fun c hc => ?_⟩
  · unfold Memory.write
    split
    · exact m.erase_pairwise a h.1
    · exact (m.erase a).insert_pairwise a v (m.erase_pairwise a h.1)
        fun c hc => ((Memory.mem_erase m a c).1 hc).2
  · rcases Memory.mem_write m a v c hc with ⟨rfl, hv⟩ | ⟨hc, -⟩
    · exact ⟨ha, hv⟩
    · exact h.2 c hc

/-- Writing a list of cells of the address space keeps the canonical form. -/
theorem Memory.writeAll_wf (cells : List Host.Cell) (m : Memory) (h : m.wf) (hc : ∀ c ∈ cells, c.1 < 2 ^ 32) :
    (m.writeAll cells).wf := by
  induction cells generalizing m with
  | nil => exact h
  | cons c cells ih =>
    exact ih (m.write c.1 c.2) (m.write_wf c.1 c.2 h (hc c (List.mem_cons_self ..)))
      fun d hd => hc d (List.mem_cons_of_mem _ hd)

/-- The entries after a list of cells is written are old ones or written ones. -/
theorem Memory.mem_writeAll (cells : List Host.Cell) (m : Memory) (c : Host.Cell) (h : c ∈ m.writeAll cells) :
    c ∈ m ∨ c ∈ cells := by
  induction cells generalizing m with
  | nil => exact .inl h
  | cons d cells ih =>
    rcases ih (m.write d.1 d.2) h with h | h
    · rcases Memory.mem_write m d.1 d.2 c h with ⟨rfl, -⟩ | ⟨h, -⟩
      · exact .inr (List.mem_cons_self ..)
      · exact .inl h
    · exact .inr (List.mem_cons_of_mem _ h)

/-- An address that is none of the cells' reads as before. -/
theorem Memory.read_writeAll_of_notMem (cells : List Host.Cell) (m : Memory) (a : Nat)
    (h : ∀ c ∈ cells, c.1 ≠ a) : (m.writeAll cells).read a = m.read a := by
  induction cells generalizing m with
  | nil => rfl
  | cons c cells ih =>
    have hc : c.1 ≠ a := h c (List.mem_cons_self ..)
    rw [Memory.writeAll, ih _ fun d hd => h d (List.mem_cons_of_mem _ hd), Memory.read_write, if_neg hc]

/-- An address that is one of the cells', each at an address of its own, reads as that cell's byte. -/
theorem Memory.read_writeAll_of_mem (cells : List Host.Cell) (m : Memory) (c : Host.Cell) (h : c ∈ cells)
    (hn : (cells.map Prod.fst).Nodup) : (m.writeAll cells).read c.1 = c.2 := by
  induction cells generalizing m with
  | nil => simp at h
  | cons d cells ih =>
    obtain ⟨hd, hn⟩ := List.nodup_cons.1 hn
    rcases List.mem_cons.1 h with rfl | h
    · rw [Memory.writeAll, Memory.read_writeAll_of_notMem, Memory.read_write, if_pos rfl]
      exact fun e he heq => hd (heq ▸ List.mem_map_of_mem he)
    · exact ih _ h hn

end Sys2Proof.Machine
end

