-- ==== Sys2Proof/Laws/Registers.lean ====
section
/-! SUPPORT. What reading and writing a general register can do (10_state.md R7, R9). -/

namespace Sys2Proof.Machine

@[simp] theorem config_x0Zero : Config.x0Zero = true := rfl

/-- x0 reads as zero. -/
@[simp] theorem State.readReg_zero (s : State) : s.readReg 0#5 = 0#32 := by simp [State.readReg]

/-- Reading a register depends on the register file alone. -/
theorem State.readReg_congr (s t : State) (h : t.x = s.x) (r : Reg) : t.readReg r = s.readReg r := by
  simp [State.readReg, h]

/-- A write to x0 changes nothing. -/
@[simp] theorem State.writeReg_zero (s : State) (v : Word) : s.writeReg 0#5 v = s := by simp [State.writeReg]

/-- A write to any other register than x0 sets its place in the register file. -/
theorem State.writeReg_x (s : State) (rd : Reg) (v : Word) (h : rd ≠ 0#5) :
    (s.writeReg rd v).x = s.x.set rd.toNat v rd.isLt := by
  simp [State.writeReg, h]

/-- What a register reads as after a write: the value written, unless it is another register or x0. -/
theorem State.readReg_writeReg (s : State) (rd : Reg) (v : Word) (r : Reg) :
    (s.writeReg rd v).readReg r = if r = rd ∧ rd ≠ 0#5 then v else s.readReg r := by
  by_cases hd : rd = 0#5
  · subst hd; simp
  · by_cases hr : r = 0#5
    · subst hr; simp [Ne.symm hd]
    · simp only [State.readReg, State.writeReg_x s rd v hd, hr, and_false, if_false, Vector.getElem_set,
        BitVec.toNat_inj]
      by_cases h : rd = r
      · subst h; simp [hd]
      · simp [h, Ne.symm h]

@[simp] theorem State.readReg_setPc (s : State) (target : Word) (r : Reg) :
    (s.setPc target).readReg r = s.readReg r := rfl
@[simp] theorem State.readReg_advance (s : State) (r : Reg) : s.advance.readReg r = s.readReg r := rfl
@[simp] theorem State.readReg_raise (s : State) (cause : Cause) (info : Word) (r : Reg) :
    (s.raise cause info).readReg r = s.readReg r := rfl
@[simp] theorem State.readReg_refuse (s : State) (reason : RefusedReason) (r : Reg) :
    (s.refuse reason).readReg r = s.readReg r := rfl
@[simp] theorem State.readReg_finish (s : State) (r : Reg) : s.finish.readReg r = s.readReg r := rfl
@[simp] theorem State.readReg_poke (s : State) (addr : Word) (n : Nat) (v : BitVec (8 * n)) (r : Reg) :
    (s.poke addr n v).readReg r = s.readReg r := rfl

/-- What a register reads as after a computing instruction or a load. -/
theorem State.readReg_retire (s : State) (rd : Reg) (v : Word) (r : Reg) :
    (s.retire rd v).readReg r = if r = rd ∧ rd ≠ 0#5 then v else s.readReg r := by
  simp only [State.retire, State.readReg_advance, State.readReg_writeReg]

/-- The place of x0 in the register file is never written. -/
theorem State.writeReg_x_zero (s : State) (rd : Reg) (v : Word) : (s.writeReg rd v).x[0] = s.x[0] := by
  by_cases hd : rd = 0#5
  · subst hd; simp
  · have h : rd.toNat ≠ 0 := fun h => hd (BitVec.eq_of_toNat_eq h)
    simp [State.writeReg_x s rd v hd, h]

/-- Writes to two registers commute. -/
theorem State.writeReg_comm (s : State) (r q : Reg) (v w : Word) (h : r ≠ q) :
    (s.writeReg r v).writeReg q w = (s.writeReg q w).writeReg r v := by
  have hn : r.toNat ≠ q.toNat := fun e => h (BitVec.eq_of_toNat_eq e)
  by_cases hr : r = 0#5
  · subst hr; simp
  · by_cases hq : q = 0#5
    · subst hq; simp
    · simp [State.writeReg, hr, hq, Vector.set_comm _ _ hn]

end Sys2Proof.Machine
end

