-- ==== Sys2Proof/Laws/Access.lean ====
section
/-! SUPPORT. What each primitive of memory and each instruction shape can answer, said once (20_memory.md R22 to R24;
60_exceptions.md R115). -/

namespace Sys2Proof.Machine

@[simp] theorem config_misalignedDataFaults : Config.misalignedDataFaults = true := rfl
@[simp] theorem config_ialignBytes : Config.ialignBytes = 4 := rfl
@[simp] theorem config_endian : Config.endian = .little := rfl
@[simp] theorem storageOrder_eq (bytes : List Byte) : storageOrder bytes = bytes := rfl

theorem misaligned_iff (addr : Word) (n : Nat) : misaligned addr n = true ↔ addr.toNat % n ≠ 0 := by
  simp [misaligned]

theorem misaligned_eq_false (addr : Word) (n : Nat) : misaligned addr n = false ↔ addr.toNat % n = 0 := by
  simp [misaligned]

/-- The addresses an access touches. -/
theorem mem_accessAddresses (addr : Word) (n a : Nat) :
    a ∈ accessAddresses addr n ↔ ∃ k, k < n ∧ (addr + BitVec.ofNat 32 k).toNat = a := by
  simp [accessAddresses]

/-- Every address an access touches is one of the address space. -/
theorem accessAddresses_lt (addr : Word) (n a : Nat) (h : a ∈ accessAddresses addr n) : a < 2 ^ 32 := by
  obtain ⟨k, -, rfl⟩ := (mem_accessAddresses addr n a).1 h
  exact (addr + BitVec.ofNat 32 k).isLt

@[simp] theorem accessAddresses_length (addr : Word) (n : Nat) : (accessAddresses addr n).length = n := by
  simp [accessAddresses]

/-- An access of at most 2^32 bytes touches each address once. -/
theorem accessAddresses_nodup (addr : Word) (n : Nat) (h : n ≤ 2 ^ 32) : (accessAddresses addr n).Nodup := by
  rw [accessAddresses, List.nodup_map_iff_inj_on List.nodup_range]
  intro i hi j hj hij
  have h1 := (BitVec.add_right_inj addr).1 (BitVec.eq_of_toNat_eq hij)
  have h2 := congrArg BitVec.toNat h1
  simp only [BitVec.toNat_ofNat] at h2
  have := List.mem_range.1 hi
  have := List.mem_range.1 hj
  rwa [Nat.mod_eq_of_lt (by omega), Nat.mod_eq_of_lt (by omega)] at h2

/-- `MemRead` (R22): the misaligned address first, then the access fault, else the value. -/
theorem State.memRead_cases (s : State) (addr : Word) (n : Nat) :
    (addr.toNat % n ≠ 0 ∧ s.memRead addr n = .error (s.raise .loadAddressMisaligned addr)) ∨
    (addr.toNat % n = 0 ∧ (∃ a ∈ accessAddresses addr n, s.env.inMem a = false) ∧
      s.memRead addr n = .error (s.raise .loadAccessFault addr)) ∨
    (addr.toNat % n = 0 ∧ (∀ a ∈ accessAddresses addr n, s.env.inMem a = true) ∧
      s.memRead addr n = .ok (s.peek addr n)) := by
  by_cases hm : addr.toNat % n = 0
  · have hm' := (misaligned_eq_false addr n).2 hm
    by_cases ho : ∃ a ∈ accessAddresses addr n, s.env.inMem a = false
    · exact .inr (.inl ⟨hm, ho, by simp [State.memRead, hm', ho]⟩)
    · refine .inr (.inr ⟨hm, by simpa using ho, ?_⟩)
      simp [State.memRead, hm', ho]
  · exact .inl ⟨hm, by simp [State.memRead, (misaligned_iff addr n).2 hm]⟩

/-- `MemWrite` (R23): the misaligned address first, then the access fault, then the refusal, else the bytes stored. -/
theorem State.memWrite_cases (s : State) (addr : Word) (n : Nat) (v : BitVec (8 * n)) :
    (addr.toNat % n ≠ 0 ∧ s.memWrite addr n v = .error (s.raise .storeAddressMisaligned addr)) ∨
    (addr.toNat % n = 0 ∧ (∃ a ∈ accessAddresses addr n, s.env.inMem a = false) ∧
      s.memWrite addr n v = .error (s.raise .storeAccessFault addr)) ∨
    (addr.toNat % n = 0 ∧ (∀ a ∈ accessAddresses addr n, s.env.inMem a = true) ∧
      (∃ a ∈ accessAddresses addr n, s.env.inCode a = true) ∧
      s.memWrite addr n v = .error (s.refuse .storeToCode)) ∨
    (addr.toNat % n = 0 ∧ (∀ a ∈ accessAddresses addr n, s.env.inMem a = true) ∧
      (∀ a ∈ accessAddresses addr n, s.env.inCode a = false) ∧ s.memWrite addr n v = .ok (s.poke addr n v)) := by
  by_cases hm : addr.toNat % n = 0
  · have hm' := (misaligned_eq_false addr n).2 hm
    by_cases ho : ∃ a ∈ accessAddresses addr n, s.env.inMem a = false
    · exact .inr (.inl ⟨hm, ho, by simp [State.memWrite, hm', ho]⟩)
    · by_cases hc : ∃ a ∈ accessAddresses addr n, s.env.inCode a = true
      · exact .inr (.inr (.inl ⟨hm, by simpa using ho, hc, by simp [State.memWrite, hm', ho, hc]⟩))
      · exact .inr (.inr (.inr ⟨hm, by simpa using ho, by simpa using hc, by simp [State.memWrite, hm', ho, hc]⟩))
  · exact .inl ⟨hm, by simp [State.memWrite, (misaligned_iff addr n).2 hm]⟩

/-- `Fetch` (R24): the access fault, or the word. -/
theorem State.fetch_cases (s : State) :
    ((∃ a ∈ accessAddresses s.pc 4, s.env.inCode a = false) ∧
      s.fetch = .error (s.raise .instructionAccessFault s.pc)) ∨
    ((∀ a ∈ accessAddresses s.pc 4, s.env.inCode a = true) ∧ s.fetch = .ok (s.peek s.pc 4)) := by
  by_cases ho : ∃ a ∈ accessAddresses s.pc 4, s.env.inCode a = false
  · exact .inl ⟨ho, by simp [State.fetch, ho]⟩
  · exact .inr ⟨by simpa using ho, by simp [State.fetch, ho]⟩

/-- A byte that a store touches holds its part of the value, bits 7:0 at the lowest address (R21, R23). -/
theorem State.read_poke_of_lt (s : State) (addr : Word) (n : Nat) (v : BitVec (8 * n)) (k : Nat) (hk : k < n)
    (hn : n ≤ 2 ^ 32) :
    (s.poke addr n v).mem.read (addr + BitVec.ofNat 32 k).toNat = v.extractLsb' (8 * k) 8 := by
  have hmem : ((addr + BitVec.ofNat 32 k).toNat, v.extractLsb' (8 * k) 8) ∈
      (accessAddresses addr n).zip (bytesOfValue n v) := by
    rw [accessAddresses, bytesOfValue, storageOrder_eq, List.zip_map']
    exact List.mem_map.2 ⟨k, List.mem_range.2 hk, rfl⟩
  have hnd : (((accessAddresses addr n).zip (bytesOfValue n v)).map Prod.fst).Nodup := by
    rw [List.map_fst_zip (by simp [bytesOfValue])]
    exact accessAddresses_nodup addr n hn
  exact Memory.read_writeAll_of_mem _ s.mem _ hmem hnd

/-- A byte that a store does not touch is as before. -/
theorem State.read_poke_of_notMem (s : State) (addr : Word) (n : Nat) (v : BitVec (8 * n)) (a : Nat)
    (h : a ∉ accessAddresses addr n) : (s.poke addr n v).mem.read a = s.mem.read a := by
  refine Memory.read_writeAll_of_notMem _ s.mem a fun c hc heq => h ?_
  obtain ⟨b, d⟩ := c
  exact heq ▸ (List.of_mem_zip hc).1

/-- A store keeps the canonical form of memory. -/
theorem State.poke_wf (s : State) (addr : Word) (n : Nat) (v : BitVec (8 * n)) (h : s.mem.wf) :
    (s.poke addr n v).mem.wf := by
  refine Memory.writeAll_wf _ s.mem h fun c hc => ?_
  obtain ⟨b, d⟩ := c
  exact accessAddresses_lt addr n b (List.of_mem_zip hc).1

/-- The entries of memory after a store are old ones or at addresses of the access. -/
theorem State.mem_poke (s : State) (addr : Word) (n : Nat) (v : BitVec (8 * n)) (c : Host.Cell)
    (h : c ∈ (s.poke addr n v).mem) : c ∈ s.mem ∨ c.1 ∈ accessAddresses addr n := by
  rcases Memory.mem_writeAll _ s.mem c h with h | h
  · exact .inl h
  · obtain ⟨b, d⟩ := c
    exact .inr (List.of_mem_zip h).1

/-- A load answers the state of its exception, or the state with the extended value in rd (47_loads.md R98). -/
theorem State.load_cases (s : State) (rd : Reg) (addr : Word) (n : Nat) (extend : BitVec (8 * n) → Word) :
    (addr.toNat % n ≠ 0 ∧ s.load rd addr n extend = .next (s.raise .loadAddressMisaligned addr)) ∨
    (addr.toNat % n = 0 ∧ (∃ a ∈ accessAddresses addr n, s.env.inMem a = false) ∧
      s.load rd addr n extend = .next (s.raise .loadAccessFault addr)) ∨
    (addr.toNat % n = 0 ∧ (∀ a ∈ accessAddresses addr n, s.env.inMem a = true) ∧
      s.load rd addr n extend = .next (s.retire rd (extend (s.peek addr n)))) := by
  rcases s.memRead_cases addr n with ⟨h, e⟩ | ⟨h, h', e⟩ | ⟨h, h', e⟩
  · exact .inl ⟨h, by simp [State.load, e]⟩
  · exact .inr (.inl ⟨h, h', by simp [State.load, e]⟩)
  · exact .inr (.inr ⟨h, h', by simp [State.load, e]⟩)

/-- A store answers the state of its exception or refusal, or the state with the bytes stored (48_stores.md R104). -/
theorem State.store_cases (s : State) (addr : Word) (n : Nat) (v : BitVec (8 * n)) :
    (addr.toNat % n ≠ 0 ∧ s.store addr n v = .next (s.raise .storeAddressMisaligned addr)) ∨
    (addr.toNat % n = 0 ∧ (∃ a ∈ accessAddresses addr n, s.env.inMem a = false) ∧
      s.store addr n v = .next (s.raise .storeAccessFault addr)) ∨
    (addr.toNat % n = 0 ∧ (∀ a ∈ accessAddresses addr n, s.env.inMem a = true) ∧
      (∃ a ∈ accessAddresses addr n, s.env.inCode a = true) ∧
      s.store addr n v = .next (s.refuse .storeToCode)) ∨
    (addr.toNat % n = 0 ∧ (∀ a ∈ accessAddresses addr n, s.env.inMem a = true) ∧
      (∀ a ∈ accessAddresses addr n, s.env.inCode a = false) ∧
      s.store addr n v = .next (s.poke addr n v).advance) := by
  rcases s.memWrite_cases addr n v with ⟨h, e⟩ | ⟨h, h', e⟩ | ⟨h, h', h'', e⟩ | ⟨h, h', h'', e⟩
  · exact .inl ⟨h, by simp [State.store, e]⟩
  · exact .inr (.inl ⟨h, h', by simp [State.store, e]⟩)
  · exact .inr (.inr (.inl ⟨h, h', h'', by simp [State.store, e]⟩))
  · exact .inr (.inr (.inr ⟨h, h', h'', by simp [State.store, e]⟩))

/-- A jump answers the state of its exception, or the state with the link in rd and the pc at the target
(45_unconditional_jumps.md R88). -/
theorem State.jump_cases (s : State) (rd : Reg) (target : Word) :
    (target.toNat % 4 ≠ 0 ∧ s.jump rd target = .next (s.raise .instructionAddressMisaligned target)) ∨
    (target.toNat % 4 = 0 ∧ s.jump rd target = .next ((s.writeReg rd (s.pc + 4#32)).setPc target)) := by
  by_cases h : target.toNat % 4 = 0
  · exact .inr ⟨h, by simp [State.jump, (misaligned_eq_false target 4).2 h]⟩
  · exact .inl ⟨h, by simp [State.jump, (misaligned_iff target 4).2 h]⟩

/-- A branch answers the state after it, or, taken to a misaligned target, that of its exception
(46_conditional_branches.md R91). -/
theorem State.branch_cases (s : State) (taken : Bool) (target : Word) :
    (taken = false ∧ s.branch taken target = .next s.advance) ∨
    (taken = true ∧ target.toNat % 4 ≠ 0 ∧
      s.branch taken target = .next (s.raise .instructionAddressMisaligned target)) ∨
    (taken = true ∧ target.toNat % 4 = 0 ∧ s.branch taken target = .next (s.setPc target)) := by
  cases taken
  · exact .inl ⟨rfl, rfl⟩
  · by_cases h : target.toNat % 4 = 0
    · exact .inr (.inr ⟨rfl, h, by simp [State.branch, (misaligned_eq_false target 4).2 h]⟩)
    · exact .inr (.inl ⟨rfl, h, by simp [State.branch, (misaligned_iff target 4).2 h]⟩)

end Sys2Proof.Machine
end

