-- ==== Sys2Proof/Laws/Division.lean ====
section
/-! SUPPORT. What a `DIVCFG` given by its corner values can do (41_arithmetic.md R59): away from the corners it is the default,
with no corner listed it is the default everywhere, and every record that obeys the ordinary law is given by some list. -/

namespace Sys2Proof.Machine

theorem divOverflows_iff (a b : Word) : divOverflows a b = true ↔ a = 0x80000000#32 ∧ b = 0xFFFFFFFF#32 := by
  simp [divOverflows]

/-- Away from the corners the signed quotient and remainder are the default's. -/
theorem DivOverrides.cfg_signed (o : DivOverrides) {a b : Word} (hb : b ≠ 0#32)
    (ho : ¬(a = 0x80000000#32 ∧ b = 0xFFFFFFFF#32)) :
    o.cfg.div a b = divCfg.div a b ∧ o.cfg.rem a b = divCfg.rem a b := by
  simp [DivOverrides.cfg, hb, divOverflows_iff, ho]

/-- By a divisor other than zero the unsigned quotient and remainder are the default's. -/
theorem DivOverrides.cfg_unsigned (o : DivOverrides) {b : Word} (a : Word) (hb : b ≠ 0#32) :
    o.cfg.divu a b = divCfg.divu a b ∧ o.cfg.remu a b = divCfg.remu a b := by
  simp [DivOverrides.cfg, hb]

/-- With no corner listed the record is the default. -/
@[simp] theorem DivOverrides.default_cfg : DivOverrides.default.cfg = divCfg := by
  simp only [DivOverrides.cfg, DivOverrides.default, resultByZero, divCfg, DivCfg.mk.injEq]
  refine ⟨?_, ?_, ?_, ?_⟩ <;> funext a b <;> by_cases hb : b = 0#32 <;> simp [hb]

/-- The default obeys the ordinary law. -/
theorem divCfg_ordinary : divCfg.Ordinary := by
  constructor
  · intro a b hb ho
    simp [divCfg, quotientSigned, remainderSigned, hb, divOverflows_iff, ho]
  · intro a b hb
    simp [divCfg, quotientUnsigned, remainderUnsigned, hb]

/-- So does every record given by its corner values. -/
theorem DivOverrides.cfg_ordinary (o : DivOverrides) : o.cfg.Ordinary := by
  constructor
  · intro a b hb ho
    rw [(o.cfg_signed hb ho).1, (o.cfg_signed hb ho).2]
    exact divCfg_ordinary.1 a b hb ho
  · intro a b hb
    rw [(o.cfg_unsigned a hb).1, (o.cfg_unsigned a hb).2]
    exact divCfg_ordinary.2 a b hb

/-- Every function of the dividend is given by some list: there are finitely many dividends. -/
theorem exists_listed (f : Word → Word) : ∃ listed : List (Word × Word), ∀ a, listed.lookup a = some (f a) := by
  suffices h : ∀ l : List Word, ∀ a ∈ l, (l.map fun w => (w, f w)).lookup a = some (f a) from
    ⟨(Finset.univ : Finset Word).toList.map fun w => (w, f w), fun a => h _ a (by simp)⟩
  intro l
  induction l with
  | nil => simp
  | cons w l ih =>
    intro a ha
    by_cases h : a = w
    · simp [h]
    · have : (a == w) = false := by simpa using h
      simpa [List.lookup_cons, this] using ih a (by simpa [h] using ha)

end Sys2Proof.Machine
end

