-- ==== Sys2Proof/Laws/PerInstr.lean ====
section
/-! SUPPORT. The family OpcodeRow: the encoding of each instruction is a word of its row of the opcode table
(30_encoding.md R45, R46). -/

namespace Sys2Proof.Laws

/-- The word of the instruction has the fixed bits of the row that bears its mnemonic (R45, R46). -/
def OpcodeRow.Statement (i : Instr) : Prop :=
  ∃ row ∈ opcodeTable, row.mnemonic = i.mnemonic ∧ row.fits (encode i) = true

/-- A word whose funct7, funct3 and opcode are the row's, masked as format R. -/
theorem fits_of_maskR (name : String) (pattern w : Word) (f7 : BitVec 7) (f3 : BitVec 3) (op : BitVec 7)
    (h7 : funct7Of w = f7) (h3 : funct3Of w = f3) (ho : opcodeOf w = op)
    (hp : encodeR f7 0#5 0#5 f3 0#5 op = pattern) : OpcodeRow.fits ⟨name, pattern, 0xFE00707F#32⟩ w = true := by
  simp [OpcodeRow.fits, and_maskR, h7, h3, ho, hp]

/-- A word whose funct3 and opcode are the row's, masked as formats I, S and B. -/
theorem fits_of_maskI (name : String) (pattern w : Word) (f3 : BitVec 3) (op : BitVec 7)
    (h3 : funct3Of w = f3) (ho : opcodeOf w = op)
    (hp : encodeR 0#7 0#5 0#5 f3 0#5 op = pattern) : OpcodeRow.fits ⟨name, pattern, 0x0000707F#32⟩ w = true := by
  simp [OpcodeRow.fits, and_maskI, h3, ho, hp]

/-- A word whose opcode is the row's, masked as formats U and J. -/
theorem fits_of_maskU (name : String) (pattern w : Word) (op : BitVec 7) (ho : opcodeOf w = op)
    (hp : encodeR 0#7 0#5 0#5 0#3 0#5 op = pattern) : OpcodeRow.fits ⟨name, pattern, 0x0000007F#32⟩ w = true := by
  simp [OpcodeRow.fits, and_maskU, ho, hp]

theorem OpcodeRow.lui (rd : Reg) (imm : BitVec 20) : OpcodeRow.Statement (.lui rd imm) :=
  ⟨⟨"LUI", 0x00000037, 0x0000007F⟩, by decide, rfl,
    fits_of_maskU _ _ _ _ (opcodeOf_encodeU ..) (by decide)⟩

theorem OpcodeRow.auipc (rd : Reg) (imm : BitVec 20) : OpcodeRow.Statement (.auipc rd imm) :=
  ⟨⟨"AUIPC", 0x00000017, 0x0000007F⟩, by decide, rfl,
    fits_of_maskU _ _ _ _ (opcodeOf_encodeU ..) (by decide)⟩

theorem OpcodeRow.add (rd rs1 rs2 : Reg) : OpcodeRow.Statement (.add rd rs1 rs2) :=
  ⟨⟨"ADD", 0x00000033, 0xFE00707F⟩, by decide, rfl,
    fits_of_maskR _ _ _ _ _ _ (funct7Of_encodeR ..) (funct3Of_encodeR ..) (opcodeOf_encodeR ..) (by decide)⟩

theorem OpcodeRow.addi (rd rs1 : Reg) (imm : BitVec 12) : OpcodeRow.Statement (.addi rd rs1 imm) :=
  ⟨⟨"ADDI", 0x00000013, 0x0000707F⟩, by decide, rfl,
    fits_of_maskI _ _ _ _ _ (funct3Of_encodeI ..) (opcodeOf_encodeI ..) (by decide)⟩

theorem OpcodeRow.sub (rd rs1 rs2 : Reg) : OpcodeRow.Statement (.sub rd rs1 rs2) :=
  ⟨⟨"SUB", 0x40000033, 0xFE00707F⟩, by decide, rfl,
    fits_of_maskR _ _ _ _ _ _ (funct7Of_encodeR ..) (funct3Of_encodeR ..) (opcodeOf_encodeR ..) (by decide)⟩

theorem OpcodeRow.mul (rd rs1 rs2 : Reg) : OpcodeRow.Statement (.mul rd rs1 rs2) :=
  ⟨⟨"MUL", 0x02000033, 0xFE00707F⟩, by decide, rfl,
    fits_of_maskR _ _ _ _ _ _ (funct7Of_encodeR ..) (funct3Of_encodeR ..) (opcodeOf_encodeR ..) (by decide)⟩

theorem OpcodeRow.mulh (rd rs1 rs2 : Reg) : OpcodeRow.Statement (.mulh rd rs1 rs2) :=
  ⟨⟨"MULH", 0x02001033, 0xFE00707F⟩, by decide, rfl,
    fits_of_maskR _ _ _ _ _ _ (funct7Of_encodeR ..) (funct3Of_encodeR ..) (opcodeOf_encodeR ..) (by decide)⟩

theorem OpcodeRow.mulhsu (rd rs1 rs2 : Reg) : OpcodeRow.Statement (.mulhsu rd rs1 rs2) :=
  ⟨⟨"MULHSU", 0x02002033, 0xFE00707F⟩, by decide, rfl,
    fits_of_maskR _ _ _ _ _ _ (funct7Of_encodeR ..) (funct3Of_encodeR ..) (opcodeOf_encodeR ..) (by decide)⟩

theorem OpcodeRow.mulhu (rd rs1 rs2 : Reg) : OpcodeRow.Statement (.mulhu rd rs1 rs2) :=
  ⟨⟨"MULHU", 0x02003033, 0xFE00707F⟩, by decide, rfl,
    fits_of_maskR _ _ _ _ _ _ (funct7Of_encodeR ..) (funct3Of_encodeR ..) (opcodeOf_encodeR ..) (by decide)⟩

theorem OpcodeRow.div (rd rs1 rs2 : Reg) : OpcodeRow.Statement (.div rd rs1 rs2) :=
  ⟨⟨"DIV", 0x02004033, 0xFE00707F⟩, by decide, rfl,
    fits_of_maskR _ _ _ _ _ _ (funct7Of_encodeR ..) (funct3Of_encodeR ..) (opcodeOf_encodeR ..) (by decide)⟩

theorem OpcodeRow.divu (rd rs1 rs2 : Reg) : OpcodeRow.Statement (.divu rd rs1 rs2) :=
  ⟨⟨"DIVU", 0x02005033, 0xFE00707F⟩, by decide, rfl,
    fits_of_maskR _ _ _ _ _ _ (funct7Of_encodeR ..) (funct3Of_encodeR ..) (opcodeOf_encodeR ..) (by decide)⟩

theorem OpcodeRow.rem (rd rs1 rs2 : Reg) : OpcodeRow.Statement (.rem rd rs1 rs2) :=
  ⟨⟨"REM", 0x02006033, 0xFE00707F⟩, by decide, rfl,
    fits_of_maskR _ _ _ _ _ _ (funct7Of_encodeR ..) (funct3Of_encodeR ..) (opcodeOf_encodeR ..) (by decide)⟩

theorem OpcodeRow.remu (rd rs1 rs2 : Reg) : OpcodeRow.Statement (.remu rd rs1 rs2) :=
  ⟨⟨"REMU", 0x02007033, 0xFE00707F⟩, by decide, rfl,
    fits_of_maskR _ _ _ _ _ _ (funct7Of_encodeR ..) (funct3Of_encodeR ..) (opcodeOf_encodeR ..) (by decide)⟩

theorem OpcodeRow.xor (rd rs1 rs2 : Reg) : OpcodeRow.Statement (.xor rd rs1 rs2) :=
  ⟨⟨"XOR", 0x00004033, 0xFE00707F⟩, by decide, rfl,
    fits_of_maskR _ _ _ _ _ _ (funct7Of_encodeR ..) (funct3Of_encodeR ..) (opcodeOf_encodeR ..) (by decide)⟩

theorem OpcodeRow.xori (rd rs1 : Reg) (imm : BitVec 12) : OpcodeRow.Statement (.xori rd rs1 imm) :=
  ⟨⟨"XORI", 0x00004013, 0x0000707F⟩, by decide, rfl,
    fits_of_maskI _ _ _ _ _ (funct3Of_encodeI ..) (opcodeOf_encodeI ..) (by decide)⟩

theorem OpcodeRow.or (rd rs1 rs2 : Reg) : OpcodeRow.Statement (.or rd rs1 rs2) :=
  ⟨⟨"OR", 0x00006033, 0xFE00707F⟩, by decide, rfl,
    fits_of_maskR _ _ _ _ _ _ (funct7Of_encodeR ..) (funct3Of_encodeR ..) (opcodeOf_encodeR ..) (by decide)⟩

theorem OpcodeRow.ori (rd rs1 : Reg) (imm : BitVec 12) : OpcodeRow.Statement (.ori rd rs1 imm) :=
  ⟨⟨"ORI", 0x00006013, 0x0000707F⟩, by decide, rfl,
    fits_of_maskI _ _ _ _ _ (funct3Of_encodeI ..) (opcodeOf_encodeI ..) (by decide)⟩

theorem OpcodeRow.and (rd rs1 rs2 : Reg) : OpcodeRow.Statement (.and rd rs1 rs2) :=
  ⟨⟨"AND", 0x00007033, 0xFE00707F⟩, by decide, rfl,
    fits_of_maskR _ _ _ _ _ _ (funct7Of_encodeR ..) (funct3Of_encodeR ..) (opcodeOf_encodeR ..) (by decide)⟩

theorem OpcodeRow.andi (rd rs1 : Reg) (imm : BitVec 12) : OpcodeRow.Statement (.andi rd rs1 imm) :=
  ⟨⟨"ANDI", 0x00007013, 0x0000707F⟩, by decide, rfl,
    fits_of_maskI _ _ _ _ _ (funct3Of_encodeI ..) (opcodeOf_encodeI ..) (by decide)⟩

theorem OpcodeRow.sll (rd rs1 rs2 : Reg) : OpcodeRow.Statement (.sll rd rs1 rs2) :=
  ⟨⟨"SLL", 0x00001033, 0xFE00707F⟩, by decide, rfl,
    fits_of_maskR _ _ _ _ _ _ (funct7Of_encodeR ..) (funct3Of_encodeR ..) (opcodeOf_encodeR ..) (by decide)⟩

theorem OpcodeRow.slli (rd rs1 : Reg) (shamt : BitVec 5) : OpcodeRow.Statement (.slli rd rs1 shamt) :=
  ⟨⟨"SLLI", 0x00001013, 0xFE00707F⟩, by decide, rfl,
    fits_of_maskR _ _ _ _ _ _ (funct7Of_encodeR ..) (funct3Of_encodeR ..) (opcodeOf_encodeR ..) (by decide)⟩

theorem OpcodeRow.srl (rd rs1 rs2 : Reg) : OpcodeRow.Statement (.srl rd rs1 rs2) :=
  ⟨⟨"SRL", 0x00005033, 0xFE00707F⟩, by decide, rfl,
    fits_of_maskR _ _ _ _ _ _ (funct7Of_encodeR ..) (funct3Of_encodeR ..) (opcodeOf_encodeR ..) (by decide)⟩

theorem OpcodeRow.srli (rd rs1 : Reg) (shamt : BitVec 5) : OpcodeRow.Statement (.srli rd rs1 shamt) :=
  ⟨⟨"SRLI", 0x00005013, 0xFE00707F⟩, by decide, rfl,
    fits_of_maskR _ _ _ _ _ _ (funct7Of_encodeR ..) (funct3Of_encodeR ..) (opcodeOf_encodeR ..) (by decide)⟩

theorem OpcodeRow.sra (rd rs1 rs2 : Reg) : OpcodeRow.Statement (.sra rd rs1 rs2) :=
  ⟨⟨"SRA", 0x40005033, 0xFE00707F⟩, by decide, rfl,
    fits_of_maskR _ _ _ _ _ _ (funct7Of_encodeR ..) (funct3Of_encodeR ..) (opcodeOf_encodeR ..) (by decide)⟩

theorem OpcodeRow.srai (rd rs1 : Reg) (shamt : BitVec 5) : OpcodeRow.Statement (.srai rd rs1 shamt) :=
  ⟨⟨"SRAI", 0x40005013, 0xFE00707F⟩, by decide, rfl,
    fits_of_maskR _ _ _ _ _ _ (funct7Of_encodeR ..) (funct3Of_encodeR ..) (opcodeOf_encodeR ..) (by decide)⟩

theorem OpcodeRow.slt (rd rs1 rs2 : Reg) : OpcodeRow.Statement (.slt rd rs1 rs2) :=
  ⟨⟨"SLT", 0x00002033, 0xFE00707F⟩, by decide, rfl,
    fits_of_maskR _ _ _ _ _ _ (funct7Of_encodeR ..) (funct3Of_encodeR ..) (opcodeOf_encodeR ..) (by decide)⟩

theorem OpcodeRow.slti (rd rs1 : Reg) (imm : BitVec 12) : OpcodeRow.Statement (.slti rd rs1 imm) :=
  ⟨⟨"SLTI", 0x00002013, 0x0000707F⟩, by decide, rfl,
    fits_of_maskI _ _ _ _ _ (funct3Of_encodeI ..) (opcodeOf_encodeI ..) (by decide)⟩

theorem OpcodeRow.sltiu (rd rs1 : Reg) (imm : BitVec 12) : OpcodeRow.Statement (.sltiu rd rs1 imm) :=
  ⟨⟨"SLTIU", 0x00003013, 0x0000707F⟩, by decide, rfl,
    fits_of_maskI _ _ _ _ _ (funct3Of_encodeI ..) (opcodeOf_encodeI ..) (by decide)⟩

theorem OpcodeRow.sltu (rd rs1 rs2 : Reg) : OpcodeRow.Statement (.sltu rd rs1 rs2) :=
  ⟨⟨"SLTU", 0x00003033, 0xFE00707F⟩, by decide, rfl,
    fits_of_maskR _ _ _ _ _ _ (funct7Of_encodeR ..) (funct3Of_encodeR ..) (opcodeOf_encodeR ..) (by decide)⟩

theorem OpcodeRow.jal (rd : Reg) (offset : BitVec 21) : OpcodeRow.Statement (.jal rd offset) :=
  ⟨⟨"JAL", 0x0000006F, 0x0000007F⟩, by decide, rfl,
    fits_of_maskU _ _ _ _ (opcodeOf_encodeJ ..) (by decide)⟩

theorem OpcodeRow.jalr (rd rs1 : Reg) (offset : BitVec 12) : OpcodeRow.Statement (.jalr rd rs1 offset) :=
  ⟨⟨"JALR", 0x00000067, 0x0000707F⟩, by decide, rfl,
    fits_of_maskI _ _ _ _ _ (funct3Of_encodeI ..) (opcodeOf_encodeI ..) (by decide)⟩

theorem OpcodeRow.beq (rs1 rs2 : Reg) (offset : BitVec 13) : OpcodeRow.Statement (.beq rs1 rs2 offset) :=
  ⟨⟨"BEQ", 0x00000063, 0x0000707F⟩, by decide, rfl,
    fits_of_maskI _ _ _ _ _ (funct3Of_encodeB ..) (opcodeOf_encodeB ..) (by decide)⟩

theorem OpcodeRow.bne (rs1 rs2 : Reg) (offset : BitVec 13) : OpcodeRow.Statement (.bne rs1 rs2 offset) :=
  ⟨⟨"BNE", 0x00001063, 0x0000707F⟩, by decide, rfl,
    fits_of_maskI _ _ _ _ _ (funct3Of_encodeB ..) (opcodeOf_encodeB ..) (by decide)⟩

theorem OpcodeRow.blt (rs1 rs2 : Reg) (offset : BitVec 13) : OpcodeRow.Statement (.blt rs1 rs2 offset) :=
  ⟨⟨"BLT", 0x00004063, 0x0000707F⟩, by decide, rfl,
    fits_of_maskI _ _ _ _ _ (funct3Of_encodeB ..) (opcodeOf_encodeB ..) (by decide)⟩

theorem OpcodeRow.bge (rs1 rs2 : Reg) (offset : BitVec 13) : OpcodeRow.Statement (.bge rs1 rs2 offset) :=
  ⟨⟨"BGE", 0x00005063, 0x0000707F⟩, by decide, rfl,
    fits_of_maskI _ _ _ _ _ (funct3Of_encodeB ..) (opcodeOf_encodeB ..) (by decide)⟩

theorem OpcodeRow.bltu (rs1 rs2 : Reg) (offset : BitVec 13) : OpcodeRow.Statement (.bltu rs1 rs2 offset) :=
  ⟨⟨"BLTU", 0x00006063, 0x0000707F⟩, by decide, rfl,
    fits_of_maskI _ _ _ _ _ (funct3Of_encodeB ..) (opcodeOf_encodeB ..) (by decide)⟩

theorem OpcodeRow.bgeu (rs1 rs2 : Reg) (offset : BitVec 13) : OpcodeRow.Statement (.bgeu rs1 rs2 offset) :=
  ⟨⟨"BGEU", 0x00007063, 0x0000707F⟩, by decide, rfl,
    fits_of_maskI _ _ _ _ _ (funct3Of_encodeB ..) (opcodeOf_encodeB ..) (by decide)⟩

theorem OpcodeRow.lb (rd rs1 : Reg) (offset : BitVec 12) : OpcodeRow.Statement (.lb rd rs1 offset) :=
  ⟨⟨"LB", 0x00000003, 0x0000707F⟩, by decide, rfl,
    fits_of_maskI _ _ _ _ _ (funct3Of_encodeI ..) (opcodeOf_encodeI ..) (by decide)⟩

theorem OpcodeRow.lh (rd rs1 : Reg) (offset : BitVec 12) : OpcodeRow.Statement (.lh rd rs1 offset) :=
  ⟨⟨"LH", 0x00001003, 0x0000707F⟩, by decide, rfl,
    fits_of_maskI _ _ _ _ _ (funct3Of_encodeI ..) (opcodeOf_encodeI ..) (by decide)⟩

theorem OpcodeRow.lbu (rd rs1 : Reg) (offset : BitVec 12) : OpcodeRow.Statement (.lbu rd rs1 offset) :=
  ⟨⟨"LBU", 0x00004003, 0x0000707F⟩, by decide, rfl,
    fits_of_maskI _ _ _ _ _ (funct3Of_encodeI ..) (opcodeOf_encodeI ..) (by decide)⟩

theorem OpcodeRow.lhu (rd rs1 : Reg) (offset : BitVec 12) : OpcodeRow.Statement (.lhu rd rs1 offset) :=
  ⟨⟨"LHU", 0x00005003, 0x0000707F⟩, by decide, rfl,
    fits_of_maskI _ _ _ _ _ (funct3Of_encodeI ..) (opcodeOf_encodeI ..) (by decide)⟩

theorem OpcodeRow.lw (rd rs1 : Reg) (offset : BitVec 12) : OpcodeRow.Statement (.lw rd rs1 offset) :=
  ⟨⟨"LW", 0x00002003, 0x0000707F⟩, by decide, rfl,
    fits_of_maskI _ _ _ _ _ (funct3Of_encodeI ..) (opcodeOf_encodeI ..) (by decide)⟩

theorem OpcodeRow.sb (rs2 rs1 : Reg) (offset : BitVec 12) : OpcodeRow.Statement (.sb rs2 rs1 offset) :=
  ⟨⟨"SB", 0x00000023, 0x0000707F⟩, by decide, rfl,
    fits_of_maskI _ _ _ _ _ (funct3Of_encodeS ..) (opcodeOf_encodeS ..) (by decide)⟩

theorem OpcodeRow.sh (rs2 rs1 : Reg) (offset : BitVec 12) : OpcodeRow.Statement (.sh rs2 rs1 offset) :=
  ⟨⟨"SH", 0x00001023, 0x0000707F⟩, by decide, rfl,
    fits_of_maskI _ _ _ _ _ (funct3Of_encodeS ..) (opcodeOf_encodeS ..) (by decide)⟩

theorem OpcodeRow.sw (rs2 rs1 : Reg) (offset : BitVec 12) : OpcodeRow.Statement (.sw rs2 rs1 offset) :=
  ⟨⟨"SW", 0x00002023, 0x0000707F⟩, by decide, rfl,
    fits_of_maskI _ _ _ _ _ (funct3Of_encodeS ..) (opcodeOf_encodeS ..) (by decide)⟩

end Sys2Proof.Laws
end

