-- ==== Sys2Proof/Tests/Slice0.lean ====
section
/-! SUPPORT. The modeller's own tests. Every expected value is a row of spec/95_test_vectors.md or follows by hand from the
rule named. First the checks of well-formedness and decoding, then one step of each instruction, then the fetch, the end of
a run and reset, and last a witness for every obligation that has hypotheses: a concrete state and operands that meet all of
them together. -/

namespace Sys2Proof.Tests

open Sys2Proof Sys2Proof.Machine

/-! ## Small states -/

/-- A state as in spec/95_test_vectors.md section 2: every register not named holds 0xA5A5A5A5, data memory is the eight
bytes `80 FF 34 12 7F 00 00 80` at 0x2000, nothing is in `CODE`, `END_PC` is out of the way. -/
def bare (regs : List (Reg × Word)) (pc : Word) : State :=
  regs.foldl (fun s r => s.writeReg r.1 r.2)
    { x := Vector.replicate 32 0xA5A5A5A5#32
      pc := pc
      mem := Memory.writeAll [] [(0x2000, 0x80#8), (0x2001, 0xFF#8), (0x2002, 0x34#8), (0x2003, 0x12#8), (0x2004, 0x7F#8),
        (0x2007, 0x80#8)]
      outcome := .running
      env :=
        { regions := [{ base := 0x2000, size := 8, kind := .data }]
          endPc := 0x00005554#32
          divOverrides := .default } }

/-- The same with the word at the pc, its four bytes `CODE`. -/
def placed (regs : List (Reg × Word)) (pc word : Word) : State := (bare regs pc).withFetchWord 32 word.toNat

/-- A part of the state after one step; none where the step answers no next state. -/
def after {α : Type} (s : State) (f : State → α) : Option α :=
  match step s with
  | .next t => some (f t)
  | _ => none

/-- The name of the class of a word that decodes to nothing. -/
def classOf (w : Word) : Option IllegalClass :=
  match decodeWord w with
  | .ok _ => none
  | .error c => some c

/-! ## Well-formedness: each check refuses an ill-formed term -/

theorem test_wellFormed_jal_odd : Instr.wellFormed (.jal 1#5 5#21) = false := by decide
theorem test_wellFormed_beq_odd : Instr.wellFormed (.beq 1#5 2#5 3#13) = false := by decide
theorem test_wellFormed_bne_odd : Instr.wellFormed (.bne 1#5 2#5 4095#13) = false := by decide
theorem test_wellFormed_blt_odd : Instr.wellFormed (.blt 1#5 2#5 1#13) = false := by decide
theorem test_wellFormed_bge_odd : Instr.wellFormed (.bge 1#5 2#5 8191#13) = false := by decide
theorem test_wellFormed_bltu_odd : Instr.wellFormed (.bltu 1#5 2#5 17#13) = false := by decide
theorem test_wellFormed_bgeu_odd : Instr.wellFormed (.bgeu 1#5 2#5 4097#13) = false := by decide
theorem test_wellFormed_even : Instr.wellFormed (.jal 1#5 6#21) = true ∧ Instr.wellFormed (.beq 1#5 2#5 2#13) = true := by
  decide

/-! ## Decoding: every constructor, from a word written out -/

/-- `lui x5, 0x12345` (spec/95_test_vectors.md 2.1). -/
theorem test_decode_lui : decodeWord 0x123452B7#32 = .ok (.lui 5#5 0x12345#20) := rfl

/-- `auipc x5, 0x80000` (spec/95_test_vectors.md 2.1). -/
theorem test_decode_auipc : decodeWord 0x80000297#32 = .ok (.auipc 5#5 0x80000#20) := rfl

/-- `add x3, x1, x2` (spec/95_test_vectors.md 2.2). -/
theorem test_decode_add : decodeWord 0x002081B3#32 = .ok (.add 3#5 1#5 2#5) := rfl

/-- `addi x3, x1, -1` (spec/95_test_vectors.md 2.2). -/
theorem test_decode_addi : decodeWord 0xFFF08193#32 = .ok (.addi 3#5 1#5 (BitVec.ofInt 12 (-1))) := rfl

/-- `sub x3, x1, x2` (spec/95_test_vectors.md 2.2). -/
theorem test_decode_sub : decodeWord 0x402081B3#32 = .ok (.sub 3#5 1#5 2#5) := rfl

/-- `mul x3, x1, x2` (spec/95_test_vectors.md 2.3). -/
theorem test_decode_mul : decodeWord 0x022081B3#32 = .ok (.mul 3#5 1#5 2#5) := rfl

/-- `mulh x3, x1, x2` (spec/95_test_vectors.md 2.3). -/
theorem test_decode_mulh : decodeWord 0x022091B3#32 = .ok (.mulh 3#5 1#5 2#5) := rfl

/-- `mulhsu x3, x1, x2` (spec/95_test_vectors.md 2.3). -/
theorem test_decode_mulhsu : decodeWord 0x0220A1B3#32 = .ok (.mulhsu 3#5 1#5 2#5) := rfl

/-- `mulhu x3, x1, x2` (spec/95_test_vectors.md 2.3). -/
theorem test_decode_mulhu : decodeWord 0x0220B1B3#32 = .ok (.mulhu 3#5 1#5 2#5) := rfl

/-- `div x3, x1, x2` (spec/95_test_vectors.md 2.4). -/
theorem test_decode_div : decodeWord 0x0220C1B3#32 = .ok (.div 3#5 1#5 2#5) := rfl

/-- `divu x3, x1, x2` (spec/95_test_vectors.md 2.4). -/
theorem test_decode_divu : decodeWord 0x0220D1B3#32 = .ok (.divu 3#5 1#5 2#5) := rfl

/-- `rem x3, x1, x2` (spec/95_test_vectors.md 2.4). -/
theorem test_decode_rem : decodeWord 0x0220E1B3#32 = .ok (.rem 3#5 1#5 2#5) := rfl

/-- `remu x3, x1, x2` (spec/95_test_vectors.md 2.4). -/
theorem test_decode_remu : decodeWord 0x0220F1B3#32 = .ok (.remu 3#5 1#5 2#5) := rfl

/-- `xor x3, x1, x2` (spec/95_test_vectors.md 2.5). -/
theorem test_decode_xor : decodeWord 0x0020C1B3#32 = .ok (.xor 3#5 1#5 2#5) := rfl

/-- `xori x3, x1, -1` (spec/95_test_vectors.md 2.5). -/
theorem test_decode_xori : decodeWord 0xFFF0C193#32 = .ok (.xori 3#5 1#5 (BitVec.ofInt 12 (-1))) := rfl

/-- `or x3, x1, x2` (spec/95_test_vectors.md 2.5). -/
theorem test_decode_or : decodeWord 0x0020E1B3#32 = .ok (.or 3#5 1#5 2#5) := rfl

/-- `ori x3, x1, -1` (spec/95_test_vectors.md 2.5). -/
theorem test_decode_ori : decodeWord 0xFFF0E193#32 = .ok (.ori 3#5 1#5 (BitVec.ofInt 12 (-1))) := rfl

/-- `and x3, x1, x2` (spec/95_test_vectors.md 2.5). -/
theorem test_decode_and : decodeWord 0x0020F1B3#32 = .ok (.and 3#5 1#5 2#5) := rfl

/-- `andi x3, x1, -1` (spec/95_test_vectors.md 2.5). -/
theorem test_decode_andi : decodeWord 0xFFF0F193#32 = .ok (.andi 3#5 1#5 (BitVec.ofInt 12 (-1))) := rfl

/-- `sll x3, x1, x2` (spec/95_test_vectors.md 2.6). -/
theorem test_decode_sll : decodeWord 0x002091B3#32 = .ok (.sll 3#5 1#5 2#5) := rfl

/-- `slli x3, x1, 0` (spec/95_test_vectors.md 2.6). -/
theorem test_decode_slli : decodeWord 0x00009193#32 = .ok (.slli 3#5 1#5 0#5) := rfl

/-- `srl x3, x1, x2` (spec/95_test_vectors.md 2.6). -/
theorem test_decode_srl : decodeWord 0x0020D1B3#32 = .ok (.srl 3#5 1#5 2#5) := rfl

/-- `srli x3, x1, 0` (spec/95_test_vectors.md 2.6). -/
theorem test_decode_srli : decodeWord 0x0000D193#32 = .ok (.srli 3#5 1#5 0#5) := rfl

/-- `sra x3, x1, x2` (spec/95_test_vectors.md 2.6). -/
theorem test_decode_sra : decodeWord 0x4020D1B3#32 = .ok (.sra 3#5 1#5 2#5) := rfl

/-- `srai x3, x1, 0` (spec/95_test_vectors.md 2.6). -/
theorem test_decode_srai : decodeWord 0x4000D193#32 = .ok (.srai 3#5 1#5 0#5) := rfl

/-- `slt x3, x1, x2` (spec/95_test_vectors.md 2.7). -/
theorem test_decode_slt : decodeWord 0x0020A1B3#32 = .ok (.slt 3#5 1#5 2#5) := rfl

/-- `slti x3, x1, -1` (spec/95_test_vectors.md 2.7). -/
theorem test_decode_slti : decodeWord 0xFFF0A193#32 = .ok (.slti 3#5 1#5 (BitVec.ofInt 12 (-1))) := rfl

/-- `sltiu x3, x1, -1` (spec/95_test_vectors.md 2.7). -/
theorem test_decode_sltiu : decodeWord 0xFFF0B193#32 = .ok (.sltiu 3#5 1#5 (BitVec.ofInt 12 (-1))) := rfl

/-- `sltu x3, x1, x2` (spec/95_test_vectors.md 2.7). -/
theorem test_decode_sltu : decodeWord 0x0020B1B3#32 = .ok (.sltu 3#5 1#5 2#5) := rfl

/-- `jal x5, 2048` (spec/95_test_vectors.md 2.8). -/
theorem test_decode_jal : decodeWord 0x001002EF#32 = .ok (.jal 5#5 2048#21) := rfl

/-- `jalr x1, -4(x5)` (spec/95_test_vectors.md 2.8). -/
theorem test_decode_jalr : decodeWord 0xFFC280E7#32 = .ok (.jalr 1#5 5#5 (BitVec.ofInt 12 (-4))) := rfl

/-- `beq x0, x0, -4096` (spec/95_test_vectors.md 2.9). -/
theorem test_decode_beq : decodeWord 0x80000063#32 = .ok (.beq 0#5 0#5 (BitVec.ofInt 13 (-4096))) := rfl

/-- `bne x1, x2, 16` (spec/95_test_vectors.md 2.9). -/
theorem test_decode_bne : decodeWord 0x00209863#32 = .ok (.bne 1#5 2#5 16#13) := rfl

/-- `blt x1, x2, 16` (spec/95_test_vectors.md 2.9). -/
theorem test_decode_blt : decodeWord 0x0020C863#32 = .ok (.blt 1#5 2#5 16#13) := rfl

/-- `bge x1, x2, 16` (spec/95_test_vectors.md 2.9). -/
theorem test_decode_bge : decodeWord 0x0020D863#32 = .ok (.bge 1#5 2#5 16#13) := rfl

/-- `bltu x1, x2, 16` (spec/95_test_vectors.md 2.9). -/
theorem test_decode_bltu : decodeWord 0x0020E863#32 = .ok (.bltu 1#5 2#5 16#13) := rfl

/-- `bgeu x1, x2, 16` (spec/95_test_vectors.md 2.9). -/
theorem test_decode_bgeu : decodeWord 0x0020F863#32 = .ok (.bgeu 1#5 2#5 16#13) := rfl

/-- `lb x3, -1(x5)` (spec/95_test_vectors.md 2.10). -/
theorem test_decode_lb : decodeWord 0xFFF28183#32 = .ok (.lb 3#5 5#5 (BitVec.ofInt 12 (-1))) := rfl

/-- `lbu x3, 0(x5)` (spec/95_test_vectors.md 2.10). -/
theorem test_decode_lbu : decodeWord 0x0002C183#32 = .ok (.lbu 3#5 5#5 0#12) := rfl

/-- `lh x3, 0(x5)` (spec/95_test_vectors.md 2.10). -/
theorem test_decode_lh : decodeWord 0x00029183#32 = .ok (.lh 3#5 5#5 0#12) := rfl

/-- `lhu x3, 0(x5)` (spec/95_test_vectors.md 2.10). -/
theorem test_decode_lhu : decodeWord 0x0002D183#32 = .ok (.lhu 3#5 5#5 0#12) := rfl

/-- `lw x3, -2044(x5)` (spec/95_test_vectors.md 2.10). -/
theorem test_decode_lw : decodeWord 0x8042A183#32 = .ok (.lw 3#5 5#5 (BitVec.ofInt 12 (-2044))) := rfl

/-- `sb x6, 0(x5)` (spec/95_test_vectors.md 2.11). -/
theorem test_decode_sb : decodeWord 0x00628023#32 = .ok (.sb 6#5 5#5 0#12) := rfl

/-- `sh x6, -2(x5)` (spec/95_test_vectors.md 2.11). -/
theorem test_decode_sh : decodeWord 0xFE629F23#32 = .ok (.sh 6#5 5#5 (BitVec.ofInt 12 (-2))) := rfl

/-- `sw x6, -4(x5)` (spec/95_test_vectors.md 2.11). -/
theorem test_decode_sw : decodeWord 0xFE62AE23#32 = .ok (.sw 6#5 5#5 (BitVec.ofInt 12 (-4))) := rfl

/-- The scattered bits of a jump offset, one at a time: offset bits 20, 11, 12 and 1 (R44). -/
theorem test_decode_jal_bits :
    decodeWord 0x8000006F#32 = .ok (.jal 0#5 0x100000#21) ∧ decodeWord 0x0010006F#32 = .ok (.jal 0#5 0x800#21) ∧
    decodeWord 0x0000106F#32 = .ok (.jal 0#5 0x1000#21) ∧ decodeWord 0x0020006F#32 = .ok (.jal 0#5 2#21) :=
  ⟨rfl, rfl, rfl, rfl⟩

/-- The scattered bits of a branch offset, one at a time: offset bits 12, 11, 5 and 1 (R42). -/
theorem test_decode_branch_bits :
    decodeWord 0x80000063#32 = .ok (.beq 0#5 0#5 0x1000#13) ∧ decodeWord 0x000000E3#32 = .ok (.beq 0#5 0#5 0x800#13) ∧
    decodeWord 0x02000063#32 = .ok (.beq 0#5 0#5 0x20#13) ∧ decodeWord 0x00000163#32 = .ok (.beq 0#5 0#5 2#13) :=
  ⟨rfl, rfl, rfl, rfl⟩

/-- The words of spec/95_test_vectors.md 2.12, in its order: none is an instruction. -/
theorem test_decode_illegal :
    [0x00000000#32, 0xFFFFFFFF#32, 0x00000073#32, 0x00100073#32, 0x30200073#32, 0x10500073#32, 0x0FF0000F#32,
      0x0000100F#32, 0xC0001073#32, 0x00000001#32, 0x0000003B#32, 0x0000001B#32, 0x00000053#32, 0x0000202F#32].map classOf =
      List.replicate 14 (some .unknownOpcode) ∧
    [0x0000A063#32, 0x00003003#32, 0x00003023#32, 0x00001067#32, 0x04000033#32, 0x40001033#32, 0x40004033#32,
      0x02009013#32, 0x40001013#32, 0x20005013#32].map classOf =
      [some .reservedBranch, some .reservedLoad, some .reservedStore, some .reservedJalr, some .reservedOp, some .reservedOp,
        some .reservedOp, some .reservedShift, some .reservedShift, some .reservedShift] := by decide

/-- Fewer than four bytes are refused by name. -/
theorem test_decode_short : (decode [0x93#8, 0x02#8, 0xA0#8]).isOk = false := by decide

/-- The bytes `93 02 A0 00` are `addi x5, x0, 10` (spec/95_test_vectors.md 2.13), and what follows them is left over. -/
theorem test_decode_bytes :
    decode [0x93#8, 0x02#8, 0xA0#8, 0x00#8, 0x37#8] = .ok (.addi 5#5 0#5 10#12, [0x37#8]) := rfl

/-- The encoder writes the same bytes. -/
theorem test_encode_bytes : encodeBytes (.addi 5#5 0#5 10#12) = [0x93#8, 0x02#8, 0xA0#8, 0x00#8] := by decide

/-- The host's question, on the table's row of SRAI. -/
theorem test_decodeTableWord : decodeTableWord 32 0x4040D193 = some (.srai 3#5 1#5 4#5) := by decide

/-- The text of lines (R51), numbers in decimal. -/
theorem test_assembly_text :
    asmLineText (disassemble (.sw 6#5 5#5 (BitVec.ofInt 12 (-4)))) = "sw x6, -4(x5)" ∧
    asmLineText (disassemble (.lui 5#5 0x12345#20)) = "lui x5, 74565" := by decide

/-- Operands at and just outside the ends of their ranges (R53). -/
theorem test_assembly_ranges :
    assemble ⟨"beq", [.reg 0, .reg 0, .num 4094]⟩ = some (.beq 0#5 0#5 4094#13) ∧
    assemble ⟨"beq", [.reg 0, .reg 0, .num 4093]⟩ = none ∧ assemble ⟨"beq", [.reg 0, .reg 0, .num 4096]⟩ = none ∧
    assemble ⟨"addi", [.reg 31, .reg 0, .num (-2048)]⟩ = some (.addi 31#5 0#5 0x800#12) ∧
    assemble ⟨"addi", [.reg 31, .reg 0, .num 2048]⟩ = none ∧ assemble ⟨"addi", [.reg 32, .reg 0, .num 0]⟩ = none ∧
    assemble ⟨"slli", [.reg 1, .reg 1, .num 32]⟩ = none ∧ assemble ⟨"lui", [.reg 1, .num 0x100000]⟩ = none ∧
    assemble ⟨"bnq", [.reg 0, .reg 0, .num 0]⟩ = none := by decide

/-- `li` of a value whose low 12 bits are negative (R52): hi is one more than bits 31:12. -/
theorem test_pseudo_li :
    expandPseudo ⟨"li", [.reg 10, .num 0x12345FFF]⟩ =
      some [⟨"lui", [.reg 10, .num 0x12346]⟩, ⟨"addi", [.reg 10, .reg 10, .num (-1)]⟩] := by decide

/-! ## One step of each instruction -/

/-- `lui x5, 0xFFFFF` (spec/95_test_vectors.md 2.1). -/
theorem test_lui_upper_bits :
    after (placed [] 0x00001000#32 0xFFFFF2B7#32)
      (fun t => (t.readReg 5#5, t.pc)) = some (0xFFFFF000#32, 0x00001004#32) := by decide

/-- `lui x0, 0xFFFFF` (spec/95_test_vectors.md 2.1). -/
theorem test_lui_x0_writes_nothing :
    after (placed [] 0x00001000#32 0xFFFFF037#32)
      (fun t => (t.readReg 0#5, t.pc)) = some (0#32, 0x00001004#32) := by decide

/-- `auipc x5, 0xFFFFF` (spec/95_test_vectors.md 2.1). -/
theorem test_auipc_wraps :
    after (placed [] 0x00001000#32 0xFFFFF297#32)
      (fun t => (t.readReg 5#5, t.pc)) = some (0x00000000#32, 0x00001004#32) := by decide

/-- `auipc x5, 0x1` (spec/95_test_vectors.md 2.1). -/
theorem test_auipc_own_address :
    after (placed [] 0xFFFFF000#32 0x00001297#32)
      (fun t => (t.readReg 5#5, t.pc)) = some (0x00000000#32, 0xFFFFF004#32) := by decide

/-- `add x3, x1, x2` (spec/95_test_vectors.md 2.2). -/
theorem test_add_wraps :
    after (placed [(1#5, 0xFFFFFFFF#32), (2#5, 0x00000001#32)] 0x00001000#32 0x002081B3#32)
      (fun t => (t.readReg 3#5, t.pc)) = some (0x00000000#32, 0x00001004#32) := by decide

/-- `add x1, x1, x1` (spec/95_test_vectors.md 2.2). -/
theorem test_add_source_is_destination :
    after (placed [(1#5, 0x40000000#32)] 0x00001000#32 0x001080B3#32)
      (fun t => (t.readReg 1#5, t.pc)) = some (0x80000000#32, 0x00001004#32) := by decide

/-- `addi x3, x1, -2048` (spec/95_test_vectors.md 2.2). -/
theorem test_addi_sign_extends :
    after (placed [(1#5, 0x80000000#32)] 0x00001000#32 0x80008193#32)
      (fun t => (t.readReg 3#5, t.pc)) = some (0x7FFFF800#32, 0x00001004#32) := by decide

/-- `addi x0, x0, 0` (spec/95_test_vectors.md 2.2). -/
theorem test_addi_x0_only_advances :
    after (placed [] 0x00001000#32 0x00000013#32)
      (fun t => (t.readReg 0#5, t.pc)) = some (0#32, 0x00001004#32) := by decide

/-- `sub x3, x1, x2` (spec/95_test_vectors.md 2.2). -/
theorem test_sub_borrows :
    after (placed [(1#5, 0x00000005#32), (2#5, 0x00000007#32)] 0x00001000#32 0x402081B3#32)
      (fun t => (t.readReg 3#5, t.pc)) = some (0xFFFFFFFE#32, 0x00001004#32) := by decide

/-- `sub x3, x1, x2` (spec/95_test_vectors.md 2.2). -/
theorem test_sub_order :
    after (placed [(1#5, 0x00000000#32), (2#5, 0xFFFFFFFF#32)] 0x00001000#32 0x402081B3#32)
      (fun t => (t.readReg 3#5, t.pc)) = some (0x00000001#32, 0x00001004#32) := by decide

/-- `mul x3, x1, x2` (spec/95_test_vectors.md 2.3). -/
theorem test_mul_low_half :
    after (placed [(1#5, 0x12345678#32), (2#5, 0x9ABCDEF0#32)] 0x00001000#32 0x022081B3#32)
      (fun t => (t.readReg 3#5, t.pc)) = some (0x242D2080#32, 0x00001004#32) := by decide

/-- `mul x3, x1, x2` (spec/95_test_vectors.md 2.3). -/
theorem test_mul_minus_one :
    after (placed [(1#5, 0xFFFFFFFF#32), (2#5, 0xFFFFFFFF#32)] 0x00001000#32 0x022081B3#32)
      (fun t => (t.readReg 3#5, t.pc)) = some (0x00000001#32, 0x00001004#32) := by decide

/-- `mulh x3, x1, x2` (spec/95_test_vectors.md 2.3). -/
theorem test_mulh_signed :
    after (placed [(1#5, 0x80000000#32), (2#5, 0x7FFFFFFF#32)] 0x00001000#32 0x022091B3#32)
      (fun t => (t.readReg 3#5, t.pc)) = some (0xC0000000#32, 0x00001004#32) := by decide

/-- `mulh x3, x1, x2` (spec/95_test_vectors.md 2.3). -/
theorem test_mulh_minimum :
    after (placed [(1#5, 0x80000000#32), (2#5, 0x80000000#32)] 0x00001000#32 0x022091B3#32)
      (fun t => (t.readReg 3#5, t.pc)) = some (0x40000000#32, 0x00001004#32) := by decide

/-- `mulhsu x3, x1, x2` (spec/95_test_vectors.md 2.3). -/
theorem test_mulhsu_signed_first :
    after (placed [(1#5, 0xFFFFFFFF#32), (2#5, 0xFFFFFFFF#32)] 0x00001000#32 0x0220A1B3#32)
      (fun t => (t.readReg 3#5, t.pc)) = some (0xFFFFFFFF#32, 0x00001004#32) := by decide

/-- `mulhsu x3, x1, x2` (spec/95_test_vectors.md 2.3). -/
theorem test_mulhsu_unsigned_second :
    after (placed [(1#5, 0x7FFFFFFF#32), (2#5, 0xFFFFFFFF#32)] 0x00001000#32 0x0220A1B3#32)
      (fun t => (t.readReg 3#5, t.pc)) = some (0x7FFFFFFE#32, 0x00001004#32) := by decide

/-- `mulhu x3, x1, x2` (spec/95_test_vectors.md 2.3). -/
theorem test_mulhu_unsigned :
    after (placed [(1#5, 0xFFFFFFFF#32), (2#5, 0xFFFFFFFF#32)] 0x00001000#32 0x0220B1B3#32)
      (fun t => (t.readReg 3#5, t.pc)) = some (0xFFFFFFFE#32, 0x00001004#32) := by decide

/-- `mulhu x3, x1, x2` (spec/95_test_vectors.md 2.3). -/
theorem test_mulhu_high_half :
    after (placed [(1#5, 0x80000000#32), (2#5, 0x00000002#32)] 0x00001000#32 0x0220B1B3#32)
      (fun t => (t.readReg 3#5, t.pc)) = some (0x00000001#32, 0x00001004#32) := by decide

/-- `div x3, x1, x2` (spec/95_test_vectors.md 2.4). -/
theorem test_div_toward_zero :
    after (placed [(1#5, 0xFFFFFFF9#32), (2#5, 0x00000002#32)] 0x00001000#32 0x0220C1B3#32)
      (fun t => (t.readReg 3#5, t.pc)) = some (0xFFFFFFFD#32, 0x00001004#32) := by decide

/-- `div x3, x1, x2` (spec/95_test_vectors.md 2.4). -/
theorem test_div_by_zero :
    after (placed [(1#5, 0x00000007#32), (2#5, 0x00000000#32)] 0x00001000#32 0x0220C1B3#32)
      (fun t => (t.readReg 3#5, t.pc)) = some (0xFFFFFFFF#32, 0x00001004#32) := by decide

/-- `divu x3, x1, x2` (spec/95_test_vectors.md 2.4). -/
theorem test_divu_unsigned :
    after (placed [(1#5, 0xFFFFFFF9#32), (2#5, 0x00000002#32)] 0x00001000#32 0x0220D1B3#32)
      (fun t => (t.readReg 3#5, t.pc)) = some (0x7FFFFFFC#32, 0x00001004#32) := by decide

/-- `divu x3, x1, x2` (spec/95_test_vectors.md 2.4). -/
theorem test_divu_by_zero :
    after (placed [(1#5, 0x00000007#32), (2#5, 0x00000000#32)] 0x00001000#32 0x0220D1B3#32)
      (fun t => (t.readReg 3#5, t.pc)) = some (0xFFFFFFFF#32, 0x00001004#32) := by decide

/-- `rem x3, x1, x2` (spec/95_test_vectors.md 2.4). -/
theorem test_rem_sign_of_dividend :
    after (placed [(1#5, 0xFFFFFFF9#32), (2#5, 0x00000002#32)] 0x00001000#32 0x0220E1B3#32)
      (fun t => (t.readReg 3#5, t.pc)) = some (0xFFFFFFFF#32, 0x00001004#32) := by decide

/-- `rem x3, x1, x2` (spec/95_test_vectors.md 2.4). -/
theorem test_rem_overflow :
    after (placed [(1#5, 0x80000000#32), (2#5, 0xFFFFFFFF#32)] 0x00001000#32 0x0220E1B3#32)
      (fun t => (t.readReg 3#5, t.pc)) = some (0x00000000#32, 0x00001004#32) := by decide

/-- `remu x3, x1, x2` (spec/95_test_vectors.md 2.4). -/
theorem test_remu_unsigned :
    after (placed [(1#5, 0xFFFFFFF9#32), (2#5, 0x00000002#32)] 0x00001000#32 0x0220F1B3#32)
      (fun t => (t.readReg 3#5, t.pc)) = some (0x00000001#32, 0x00001004#32) := by decide

/-- `remu x3, x1, x2` (spec/95_test_vectors.md 2.4). -/
theorem test_remu_by_zero :
    after (placed [(1#5, 0x00000007#32), (2#5, 0x00000000#32)] 0x00001000#32 0x0220F1B3#32)
      (fun t => (t.readReg 3#5, t.pc)) = some (0x00000007#32, 0x00001004#32) := by decide

/-- `xor x3, x1, x2` (spec/95_test_vectors.md 2.5). -/
theorem test_xor_bits :
    after (placed [(1#5, 0xF0F0A5A5#32), (2#5, 0x0FF0FF00#32)] 0x00001000#32 0x0020C1B3#32)
      (fun t => (t.readReg 3#5, t.pc)) = some (0xFF005AA5#32, 0x00001004#32) := by decide

/-- `xor x3, x1, x1` (spec/95_test_vectors.md 2.5). -/
theorem test_xor_self :
    after (placed [(1#5, 0xF0F0A5A5#32)] 0x00001000#32 0x0010C1B3#32)
      (fun t => (t.readReg 3#5, t.pc)) = some (0x00000000#32, 0x00001004#32) := by decide

/-- `xori x3, x1, -2048` (spec/95_test_vectors.md 2.5). -/
theorem test_xori_sign_extends :
    after (placed [(1#5, 0x00000000#32)] 0x00001000#32 0x8000C193#32)
      (fun t => (t.readReg 3#5, t.pc)) = some (0xFFFFF800#32, 0x00001004#32) := by decide

/-- `xori x3, x1, -1` (spec/95_test_vectors.md 2.5). -/
theorem test_xori_not :
    after (placed [(1#5, 0xF0F0A5A5#32)] 0x00001000#32 0xFFF0C193#32)
      (fun t => (t.readReg 3#5, t.pc)) = some (0x0F0F5A5A#32, 0x00001004#32) := by decide

/-- `or x3, x1, x2` (spec/95_test_vectors.md 2.5). -/
theorem test_or_bits :
    after (placed [(1#5, 0xF0F0A5A5#32), (2#5, 0x0FF0FF00#32)] 0x00001000#32 0x0020E1B3#32)
      (fun t => (t.readReg 3#5, t.pc)) = some (0xFFF0FFA5#32, 0x00001004#32) := by decide

/-- `or x3, x1, x0` (spec/95_test_vectors.md 2.5). -/
theorem test_or_x0 :
    after (placed [(1#5, 0xF0F0A5A5#32)] 0x00001000#32 0x0000E1B3#32)
      (fun t => (t.readReg 3#5, t.pc)) = some (0xF0F0A5A5#32, 0x00001004#32) := by decide

/-- `ori x3, x1, 15` (spec/95_test_vectors.md 2.5). -/
theorem test_ori_bits :
    after (placed [(1#5, 0xF0F0A5A5#32)] 0x00001000#32 0x00F0E193#32)
      (fun t => (t.readReg 3#5, t.pc)) = some (0xF0F0A5AF#32, 0x00001004#32) := by decide

/-- `ori x3, x0, -2048` (spec/95_test_vectors.md 2.5). -/
theorem test_ori_sign_extends :
    after (placed [] 0x00001000#32 0x80006193#32)
      (fun t => (t.readReg 3#5, t.pc)) = some (0xFFFFF800#32, 0x00001004#32) := by decide

/-- `and x3, x1, x2` (spec/95_test_vectors.md 2.5). -/
theorem test_and_bits :
    after (placed [(1#5, 0xF0F0A5A5#32), (2#5, 0x0FF0FF00#32)] 0x00001000#32 0x0020F1B3#32)
      (fun t => (t.readReg 3#5, t.pc)) = some (0x00F0A500#32, 0x00001004#32) := by decide

/-- `and x3, x1, x0` (spec/95_test_vectors.md 2.5). -/
theorem test_and_x0 :
    after (placed [(1#5, 0xF0F0A5A5#32)] 0x00001000#32 0x0000F1B3#32)
      (fun t => (t.readReg 3#5, t.pc)) = some (0x00000000#32, 0x00001004#32) := by decide

/-- `andi x3, x1, -2048` (spec/95_test_vectors.md 2.5). -/
theorem test_andi_sign_extends :
    after (placed [(1#5, 0xF0F0A5A5#32)] 0x00001000#32 0x8000F193#32)
      (fun t => (t.readReg 3#5, t.pc)) = some (0xF0F0A000#32, 0x00001004#32) := by decide

/-- `andi x3, x1, 15` (spec/95_test_vectors.md 2.5). -/
theorem test_andi_is_and :
    after (placed [(1#5, 0x000000F0#32)] 0x00001000#32 0x00F0F193#32)
      (fun t => (t.readReg 3#5, t.pc)) = some (0x00000000#32, 0x00001004#32) := by decide

/-- `sll x3, x1, x2` (spec/95_test_vectors.md 2.6). -/
theorem test_sll_low_five_bits :
    after (placed [(1#5, 0x00000001#32), (2#5, 0x00000020#32)] 0x00001000#32 0x002091B3#32)
      (fun t => (t.readReg 3#5, t.pc)) = some (0x00000001#32, 0x00001004#32) := by decide

/-- `sll x3, x1, x2` (spec/95_test_vectors.md 2.6). -/
theorem test_sll_drops_high_bits :
    after (placed [(1#5, 0x80000001#32), (2#5, 0x00000001#32)] 0x00001000#32 0x002091B3#32)
      (fun t => (t.readReg 3#5, t.pc)) = some (0x00000002#32, 0x00001004#32) := by decide

/-- `slli x3, x1, 31` (spec/95_test_vectors.md 2.6). -/
theorem test_slli_by_31 :
    after (placed [(1#5, 0x00000003#32)] 0x00001000#32 0x01F09193#32)
      (fun t => (t.readReg 3#5, t.pc)) = some (0x80000000#32, 0x00001004#32) := by decide

/-- `slli x3, x1, 0` (spec/95_test_vectors.md 2.6). -/
theorem test_slli_by_0 :
    after (placed [(1#5, 0xF0F0A5A5#32)] 0x00001000#32 0x00009193#32)
      (fun t => (t.readReg 3#5, t.pc)) = some (0xF0F0A5A5#32, 0x00001004#32) := by decide

/-- `srl x3, x1, x2` (spec/95_test_vectors.md 2.6). -/
theorem test_srl_zeros_enter :
    after (placed [(1#5, 0x80000000#32), (2#5, 0x0000001F#32)] 0x00001000#32 0x0020D1B3#32)
      (fun t => (t.readReg 3#5, t.pc)) = some (0x00000001#32, 0x00001004#32) := by decide

/-- `srl x3, x1, x2` (spec/95_test_vectors.md 2.6). -/
theorem test_srl_low_five_bits :
    after (placed [(1#5, 0x80000000#32), (2#5, 0x00000021#32)] 0x00001000#32 0x0020D1B3#32)
      (fun t => (t.readReg 3#5, t.pc)) = some (0x40000000#32, 0x00001004#32) := by decide

/-- `srli x3, x1, 1` (spec/95_test_vectors.md 2.6). -/
theorem test_srli_by_1 :
    after (placed [(1#5, 0x80000000#32)] 0x00001000#32 0x0010D193#32)
      (fun t => (t.readReg 3#5, t.pc)) = some (0x40000000#32, 0x00001004#32) := by decide

/-- `srli x3, x1, 31` (spec/95_test_vectors.md 2.6). -/
theorem test_srli_by_31 :
    after (placed [(1#5, 0xFFFFFFFF#32)] 0x00001000#32 0x01F0D193#32)
      (fun t => (t.readReg 3#5, t.pc)) = some (0x00000001#32, 0x00001004#32) := by decide

/-- `sra x3, x1, x2` (spec/95_test_vectors.md 2.6). -/
theorem test_sra_sign_enters :
    after (placed [(1#5, 0x80000000#32), (2#5, 0x00000024#32)] 0x00001000#32 0x4020D1B3#32)
      (fun t => (t.readReg 3#5, t.pc)) = some (0xF8000000#32, 0x00001004#32) := by decide

/-- `sra x3, x1, x2` (spec/95_test_vectors.md 2.6). -/
theorem test_sra_positive :
    after (placed [(1#5, 0x7FFFFFFF#32), (2#5, 0x00000004#32)] 0x00001000#32 0x4020D1B3#32)
      (fun t => (t.readReg 3#5, t.pc)) = some (0x07FFFFFF#32, 0x00001004#32) := by decide

/-- `srai x3, x1, 31` (spec/95_test_vectors.md 2.6). -/
theorem test_srai_by_31 :
    after (placed [(1#5, 0x80000000#32)] 0x00001000#32 0x41F0D193#32)
      (fun t => (t.readReg 3#5, t.pc)) = some (0xFFFFFFFF#32, 0x00001004#32) := by decide

/-- `srai x3, x1, 31` (spec/95_test_vectors.md 2.6). -/
theorem test_srai_positive :
    after (placed [(1#5, 0x7FFFFFFF#32)] 0x00001000#32 0x41F0D193#32)
      (fun t => (t.readReg 3#5, t.pc)) = some (0x00000000#32, 0x00001004#32) := by decide

/-- `slt x3, x1, x2` (spec/95_test_vectors.md 2.7). -/
theorem test_slt_signed :
    after (placed [(1#5, 0x80000000#32), (2#5, 0x7FFFFFFF#32)] 0x00001000#32 0x0020A1B3#32)
      (fun t => (t.readReg 3#5, t.pc)) = some (0x00000001#32, 0x00001004#32) := by decide

/-- `slt x3, x1, x2` (spec/95_test_vectors.md 2.7). -/
theorem test_slt_equal :
    after (placed [(1#5, 0x00000005#32), (2#5, 0x00000005#32)] 0x00001000#32 0x0020A1B3#32)
      (fun t => (t.readReg 3#5, t.pc)) = some (0x00000000#32, 0x00001004#32) := by decide

/-- `slti x3, x1, -1` (spec/95_test_vectors.md 2.7). -/
theorem test_slti_sign_extends :
    after (placed [(1#5, 0x80000000#32)] 0x00001000#32 0xFFF0A193#32)
      (fun t => (t.readReg 3#5, t.pc)) = some (0x00000001#32, 0x00001004#32) := by decide

/-- `slti x3, x1, -2048` (spec/95_test_vectors.md 2.7). -/
theorem test_slti_signed :
    after (placed [(1#5, 0x7FFFFFFF#32)] 0x00001000#32 0x8000A193#32)
      (fun t => (t.readReg 3#5, t.pc)) = some (0x00000000#32, 0x00001004#32) := by decide

/-- `sltiu x3, x1, -1` (spec/95_test_vectors.md 2.7). -/
theorem test_sltiu_sign_extends :
    after (placed [(1#5, 0xFFFFFFFE#32)] 0x00001000#32 0xFFF0B193#32)
      (fun t => (t.readReg 3#5, t.pc)) = some (0x00000001#32, 0x00001004#32) := by decide

/-- `sltiu x3, x1, 1` (spec/95_test_vectors.md 2.7). -/
theorem test_sltiu_is_zero :
    after (placed [(1#5, 0x00000000#32)] 0x00001000#32 0x0010B193#32)
      (fun t => (t.readReg 3#5, t.pc)) = some (0x00000001#32, 0x00001004#32) := by decide

/-- `sltu x3, x1, x2` (spec/95_test_vectors.md 2.7). -/
theorem test_sltu_unsigned :
    after (placed [(1#5, 0xFFFFFFFF#32), (2#5, 0x00000001#32)] 0x00001000#32 0x0020B1B3#32)
      (fun t => (t.readReg 3#5, t.pc)) = some (0x00000000#32, 0x00001004#32) := by decide

/-- `sltu x3, x1, x2` (spec/95_test_vectors.md 2.7). -/
theorem test_sltu_less :
    after (placed [(1#5, 0x00000001#32), (2#5, 0xFFFFFFFF#32)] 0x00001000#32 0x0020B1B3#32)
      (fun t => (t.readReg 3#5, t.pc)) = some (0x00000001#32, 0x00001004#32) := by decide

/-- `jal x5, 4096` (spec/95_test_vectors.md 2.8). -/
theorem test_jal_link_and_target :
    after (placed [] 0x00001000#32 0x000012EF#32)
      (fun t => (t.readReg 5#5, t.pc)) = some (0x00001004#32, 0x00002000#32) := by decide

/-- `jal x1, 6` (spec/95_test_vectors.md 2.8). -/
theorem test_jal_misaligned_target :
    after (placed [] 0x00001000#32 0x006000EF#32)
      State.outcome = some (.faulted .instructionAddressMisaligned 0x00001006#32 0x00001000#32) := by decide

/-- `jalr x5, 4(x5)` (spec/95_test_vectors.md 2.8). -/
theorem test_jalr_old_rs1 :
    after (placed [(5#5, 0x00002000#32)] 0x00001000#32 0x004282E7#32)
      (fun t => (t.readReg 5#5, t.pc)) = some (0x00001004#32, 0x00002004#32) := by decide

/-- `jalr x1, 3(x5)` (spec/95_test_vectors.md 2.8). -/
theorem test_jalr_clears_bit_0_first :
    after (placed [(5#5, 0x00002000#32)] 0x00001000#32 0x003280E7#32)
      State.outcome = some (.faulted .instructionAddressMisaligned 0x00002002#32 0x00001000#32) := by decide

/-- `beq x1, x2, 16` (spec/95_test_vectors.md 2.9). -/
theorem test_beq_taken :
    after (placed [(1#5, 0x00000005#32), (2#5, 0x00000005#32)] 0x00001000#32 0x00208863#32)
      State.pc = some 0x00001010#32 := by decide

/-- `beq x0, x0, 2048` (spec/95_test_vectors.md 2.9). -/
theorem test_beq_offset_bit_11 :
    after (placed [] 0x00001000#32 0x000000E3#32)
      State.pc = some 0x00001800#32 := by decide

/-- `bne x1, x2, 16` (spec/95_test_vectors.md 2.9). -/
theorem test_bne_taken :
    after (placed [(1#5, 0xFFFFFFFF#32), (2#5, 0x00000001#32)] 0x00001000#32 0x00209863#32)
      State.pc = some 0x00001010#32 := by decide

/-- `bne x0, x0, 4094` (spec/95_test_vectors.md 2.9). -/
theorem test_bne_not_taken_never_raises :
    after (placed [] 0x00001000#32 0x7E001FE3#32)
      State.pc = some 0x00001004#32 := by decide

/-- `blt x1, x2, 16` (spec/95_test_vectors.md 2.9). -/
theorem test_blt_signed :
    after (placed [(1#5, 0xFFFFFFFF#32), (2#5, 0x00000001#32)] 0x00001000#32 0x0020C863#32)
      State.pc = some 0x00001010#32 := by decide

/-- `blt x1, x2, 16` (spec/95_test_vectors.md 2.9). -/
theorem test_blt_equal :
    after (placed [(1#5, 0x00000005#32), (2#5, 0x00000005#32)] 0x00001000#32 0x0020C863#32)
      State.pc = some 0x00001004#32 := by decide

/-- `bge x0, x0, -8` (spec/95_test_vectors.md 2.9). -/
theorem test_bge_wraps_below_zero :
    after (placed [] 0x00000004#32 0xFE005CE3#32)
      State.pc = some 0xFFFFFFFC#32 := by decide

/-- `bge x1, x2, 16` (spec/95_test_vectors.md 2.9). -/
theorem test_bge_signed :
    after (placed [(1#5, 0x80000000#32), (2#5, 0x7FFFFFFF#32)] 0x00001000#32 0x0020D863#32)
      State.pc = some 0x00001004#32 := by decide

/-- `bltu x0, x1, 8` (spec/95_test_vectors.md 2.9). -/
theorem test_bltu_wraps_above_top :
    after (placed [(1#5, 0x00000001#32)] 0xFFFFFFFC#32 0x00106463#32)
      State.pc = some 0x00000004#32 := by decide

/-- `bltu x1, x2, 16` (spec/95_test_vectors.md 2.9). -/
theorem test_bltu_unsigned :
    after (placed [(1#5, 0x80000000#32), (2#5, 0x7FFFFFFF#32)] 0x00001000#32 0x0020E863#32)
      State.pc = some 0x00001004#32 := by decide

/-- `bgeu x1, x2, 16` (spec/95_test_vectors.md 2.9). -/
theorem test_bgeu_unsigned :
    after (placed [(1#5, 0x80000000#32), (2#5, 0x7FFFFFFF#32)] 0x00001000#32 0x0020F863#32)
      State.pc = some 0x00001010#32 := by decide

/-- `bgeu x1, x2, 16` (spec/95_test_vectors.md 2.9). -/
theorem test_bgeu_less :
    after (placed [(1#5, 0x00000001#32), (2#5, 0xFFFFFFFF#32)] 0x00001000#32 0x0020F863#32)
      State.pc = some 0x00001004#32 := by decide

/-- `lb x3, -1(x5)` (spec/95_test_vectors.md 2.10). -/
theorem test_lb_sign_extends :
    after (placed [(5#5, 0x00002002#32)] 0x00001000#32 0xFFF28183#32)
      (fun t => (t.readReg 3#5, t.pc)) = some (0xFFFFFFFF#32, 0x00001004#32) := by decide

/-- `lb x3, -1(x5)` (spec/95_test_vectors.md 2.10). -/
theorem test_lb_outside_mem :
    after (placed [(5#5, 0x00002000#32)] 0x00001000#32 0xFFF28183#32)
      State.outcome = some (.faulted .loadAccessFault 0x00001FFF#32 0x00001000#32) := by decide

/-- `lh x3, 2(x5)` (spec/95_test_vectors.md 2.10). -/
theorem test_lh_little_endian :
    after (placed [(5#5, 0x00002000#32)] 0x00001000#32 0x00229183#32)
      (fun t => (t.readReg 3#5, t.pc)) = some (0x00001234#32, 0x00001004#32) := by decide

/-- `lh x3, 1(x5)` (spec/95_test_vectors.md 2.10). -/
theorem test_lh_misaligned :
    after (placed [(5#5, 0x00002000#32)] 0x00001000#32 0x00129183#32)
      State.outcome = some (.faulted .loadAddressMisaligned 0x00002001#32 0x00001000#32) := by decide

/-- `lbu x3, 7(x5)` (spec/95_test_vectors.md 2.10). -/
theorem test_lbu_zero_extends :
    after (placed [(5#5, 0x00002000#32)] 0x00001000#32 0x0072C183#32)
      (fun t => (t.readReg 3#5, t.pc)) = some (0x00000080#32, 0x00001004#32) := by decide

/-- `lbu x3, 0(x5)` (spec/95_test_vectors.md 2.10). -/
theorem test_lbu_first_byte :
    after (placed [(5#5, 0x00002000#32)] 0x00001000#32 0x0002C183#32)
      (fun t => (t.readReg 3#5, t.pc)) = some (0x00000080#32, 0x00001004#32) := by decide

/-- `lhu x3, 6(x5)` (spec/95_test_vectors.md 2.10). -/
theorem test_lhu_zero_extends :
    after (placed [(5#5, 0x00002000#32)] 0x00001000#32 0x0062D183#32)
      (fun t => (t.readReg 3#5, t.pc)) = some (0x00008000#32, 0x00001004#32) := by decide

/-- `lhu x3, 3(x5)` (spec/95_test_vectors.md 2.10). -/
theorem test_lhu_misaligned :
    after (placed [(5#5, 0x00002000#32)] 0x00001000#32 0x0032D183#32)
      State.outcome = some (.faulted .loadAddressMisaligned 0x00002003#32 0x00001000#32) := by decide

/-- `lw x3, 0(x5)` (spec/95_test_vectors.md 2.10). -/
theorem test_lw_from_code :
    after (placed [(5#5, 0x00001000#32)] 0x00001000#32 0x0002A183#32)
      (fun t => (t.readReg 3#5, t.pc)) = some (0x0002A183#32, 0x00001004#32) := by decide

/-- `lw x3, 9(x5)` (spec/95_test_vectors.md 2.10). -/
theorem test_lw_misaligned_before_access :
    after (placed [(5#5, 0x00002000#32)] 0x00001000#32 0x0092A183#32)
      State.outcome = some (.faulted .loadAddressMisaligned 0x00002009#32 0x00001000#32) := by decide

/-- `sb x6, 7(x5)` (spec/95_test_vectors.md 2.11). -/
theorem test_sb_one_byte :
    after (placed [(5#5, 0x00002000#32), (6#5, 0x123456AB#32)] 0x00001000#32 0x006283A3#32)
      (fun t => ([0x2007].map t.mem.read, t.pc)) = some ([0xAB#8], 0x00001004#32) := by decide

/-- `sb x6, 3(x5)` (spec/95_test_vectors.md 2.11). -/
theorem test_sb_into_code_refused :
    after (placed [(5#5, 0x00001000#32), (6#5, 0x00000000#32)] 0x00001000#32 0x006281A3#32)
      State.outcome = some (.refused .storeToCode 0x00001000#32) := by decide

/-- `sh x6, -2(x5)` (spec/95_test_vectors.md 2.11). -/
theorem test_sh_little_endian :
    after (placed [(5#5, 0x00002008#32), (6#5, 0x1234BEEF#32)] 0x00001000#32 0xFE629F23#32)
      (fun t => ([0x2006, 0x2007].map t.mem.read, t.pc)) = some ([0xEF#8, 0xBE#8], 0x00001004#32) := by decide

/-- `sh x6, 1(x5)` (spec/95_test_vectors.md 2.11). -/
theorem test_sh_misaligned :
    after (placed [(5#5, 0x00002000#32), (6#5, 0x1234BEEF#32)] 0x00001000#32 0x006290A3#32)
      State.outcome = some (.faulted .storeAddressMisaligned 0x00002001#32 0x00001000#32) := by decide

/-- `sw x6, -4(x5)` (spec/95_test_vectors.md 2.11). -/
theorem test_sw_little_endian :
    after (placed [(5#5, 0x00002004#32), (6#5, 0xDEADBEEF#32)] 0x00001000#32 0xFE62AE23#32)
      (fun t => ([0x2000, 0x2001, 0x2002, 0x2003].map t.mem.read, t.pc)) =
      some ([0xEF#8, 0xBE#8, 0xAD#8, 0xDE#8], 0x00001004#32) := by decide

/-- `sw x6, 8(x5)` (spec/95_test_vectors.md 2.11). -/
theorem test_sw_outside_mem :
    after (placed [(5#5, 0x00002000#32), (6#5, 0xDEADBEEF#32)] 0x00001000#32 0x0062A423#32)
      State.outcome = some (.faulted .storeAccessFault 0x00002008#32 0x00001000#32) := by decide

/-- A run whose `DIVCFG` has another quotient of 7 by zero writes it (R59), and one that lists none writes the default. -/
theorem test_div_by_zero_is_open :
    after { placed [(1#5, 7#32), (2#5, 0#32)] 0x00001000#32 0x0220C1B3#32 with
        env := { (placed [] 0x00001000#32 0#32).env with
          divOverrides := { DivOverrides.default with divByZero := [(7#32, 5#32)] } } }
      (fun t => t.readReg 3#5) = some 5#32 ∧
    after (placed [(1#5, 7#32), (2#5, 0#32)] 0x00001000#32 0x0220C1B3#32) (fun t => t.readReg 3#5) =
      some 0xFFFFFFFF#32 := by decide

/-! ## Fetch, end of a run, reset -/

/-- Every word of spec/95_test_vectors.md 2.12 that stands for a RISC-V system instruction is raised with the word. -/
theorem test_illegal_raised :
    after (placed [] 0x00001000#32 0x00000073#32) State.outcome =
      some (.faulted .illegalInstruction 0x00000073#32 0x00001000#32) := by decide

/-- At `END_PC` the run ends; nothing is fetched and nothing else changes (2.13). -/
theorem test_end_of_run :
    after { bare [] 0x00001000#32 with env := { State.reset.env with endPc := 0x00001000#32 } } State.outcome = some .ended := by
  decide

/-- Data memory is not executable (2.13). -/
theorem test_fetch_from_data :
    after (bare [] 0x00002000#32) State.outcome =
      some (.faulted .instructionAccessFault 0x00002000#32 0x00002000#32) := by decide

/-- The fourth byte of the word is missing from `CODE` (2.13). -/
theorem test_fetch_half_outside :
    after { bare [] 0x00001000#32 with
        env := { State.reset.env with regions := [{ base := 0x1000, size := 3, kind := .code }] } } State.outcome =
      some (.faulted .instructionAccessFault 0x00001000#32 0x00001000#32) := by decide

/-- A word placed at reset is the first instruction that runs, `addi x5, x0, 10` (log 9). -/
theorem test_placed_at_reset :
    after (State.reset.withFetchWord 32 0x00A00293) (fun t => (t.readReg 5#5, t.pc)) = some (10#32, 0x00001004#32) := by
  decide

/-- Reset's memory has the canonical form. -/
theorem test_reset_memory_wf : State.reset.mem.wf := by decide

/-- Writing the byte an unlisted address holds removes the entry, so that equal memories are equal lists. -/
theorem test_memory_canonical : (Memory.write (Memory.write [] 7 1#8) 7 0#8) = [] := by decide

/-! ## Witnesses: what the hypotheses of the obligations ask for is met

A witness of a statement with several clauses has one part, or one theorem, for each clause that has hypotheses. -/

theorem executes_of {s : State} {i : Instr} (hr : s.outcome = .running) (hp : s.pc ≠ s.env.endPc)
    (hc : ∀ a ∈ accessAddresses s.pc 4, s.env.inCode a = true) (hd : decodeWord (wordAtPc s) = .ok i) : Executes s i :=
  ⟨⟨hr, hp, hc⟩, hd⟩

theorem not_bytesInMem_of {s : State} {addr : Word} {n : Nat} (k : Nat) (hk : k < n)
    (h : s.env.inMem (addr + BitVec.ofNat 32 k).toNat = false) : ¬BytesInMem s addr n := by
  intro hb
  have := hb k hk
  simp_all

theorem not_bytesOutsideCode_of {s : State} {addr : Word} {n : Nat} (k : Nat) (hk : k < n)
    (h : s.env.inCode (addr + BitVec.ofNat 32 k).toNat = true) : ¬BytesOutsideCode s addr n := by
  intro hb
  have := hb k hk
  simp_all

/-- Data memory of six bytes, 0x2000 to 0x2005: an aligned word at 0x2004 has its two upper bytes outside `MEM`. -/
def sixBytes (regs : List (Reg × Word)) : State :=
  { bare regs 0x00001000#32 with env := { State.reset.env with regions := [{ base := 0x2000, size := 6, kind := .data }] } }

/-- A code region inside data memory: the fourth byte of the word at 0x2004 is `CODE`. -/
def codeInside (regs : List (Reg × Word)) : State :=
  { bare regs 0x00001000#32 with
    env := { State.reset.env with
             regions := [{ base := 0x2000, size := 8, kind := .data }, { base := 0x2007, size := 1, kind := .code }] } }

/-- Launch parameters that meet the launch conditions of R129. -/
def someLaunch : Launch where
  regions := [{ base := 0x1000, size := 4, kind := .code }, { base := 0x2000, size := 8, kind := .data }]
  initMem := [(0x1000, 0x6F#8), (0x2007, 0x80#8)]
  initX := Vector.replicate 32 0xA5A5A5A5#32
  resetPc := 0x00001000#32
  endPc := 0x00001004#32
  divOverrides := .default

/-- Corner values other than the default's: DIV of 7 by zero gives 5, and the signed overflow a remainder of 9. -/
def oddDivCfg : DivOverrides := { DivOverrides.default with divByZero := [(7#32, 5#32)], remOverflow := some 9#32 }

theorem witness_EncodeThenDecode :
    Instr.wellFormed (.jal 31#5 0x100000#21) = true ∧ Instr.wellFormed (.bgeu 31#5 1#5 4094#13) = true := by decide

theorem witness_DecodeThenEncode : decodeWord 0x7E000FE3#32 = .ok (.beq 0#5 0#5 4094#13) := rfl

theorem witness_DecodeFollowsOpcodeTable_row :
    ∃ r ∈ opcodeTable, r.mnemonic = "SRAI" ∧ r.fits 0x4040D193#32 = true ∧
      decodeWord 0x4040D193#32 = .ok (.srai 3#5 1#5 4#5) := ⟨opcodeTable[24], by decide, rfl, by decide, rfl⟩

theorem witness_DecodeFollowsOpcodeTable_noRow :
    Fetches (placed [] 0x00001000#32 0xFFFFFFFF#32) ∧
      ∀ row ∈ opcodeTable, row.fits (wordAtPc (placed [] 0x00001000#32 0xFFFFFFFF#32)) = false := by
  unfold Fetches codeAtPc; decide

/-- One word of each class of R47 at least, those at the ends of its range of funct3 or funct7 among them. -/
theorem witness_IllegalWordsExactly :
    ∀ n ∈ [0x00000000, 0x04000033, 0xFE000033, 0x40001033, 0x40007033, 0x02009013, 0x20005013,
        0x00001067, 0x00007067, 0x00002063, 0x00003063, 0x00003003, 0x00006003, 0x00007003,
        0x00003023, 0x00007023],
      Fetches (placed [] 0x00001000#32 (BitVec.ofNat 32 n)) ∧
        IllegalWord (wordAtPc (placed [] 0x00001000#32 (BitVec.ofNat 32 n))) := by
  unfold Fetches codeAtPc IllegalWord; decide

theorem witness_NoFenceAndNoSystemInstruction :
    (Fetches (placed [] 0x00001000#32 0x0FF0000F#32) ∧
      wordAtPc (placed [] 0x00001000#32 0x0FF0000F#32) = 0x1FE000#25 ++ 0b0001111#7) ∧
    (Fetches (placed [] 0x00001000#32 0x00000073#32) ∧
      wordAtPc (placed [] 0x00001000#32 0x00000073#32) = 0#25 ++ 0b1110011#7) := by
  unfold Fetches codeAtPc; decide

theorem witness_DisassembleThenAssemble :
    Instr.wellFormed (.jal 31#5 0x0FFFFE#21) = true ∧ Instr.wellFormed (.blt 31#5 1#5 0x1000#13) = true ∧
    Instr.wellFormed (.auipc 31#5 0xFFFFF#20) = true := by decide

/-- A line in full, and the two with rd omitted. -/
theorem witness_AssembleThenDisassemble :
    assemble ⟨"sb", [.reg 31, .mem 2047 1]⟩ = some (.sb 31#5 1#5 2047#12) ∧
    assemble ⟨"jal", [.num 1048574]⟩ = some (.jal 1#5 0x0FFFFE#21) ∧
    assemble ⟨"jalr", [.mem (-2048) 5]⟩ = some (.jalr 1#5 5#5 0x800#12) := by decide

theorem witness_StepRunsDecodedInstruction :
    Executes (placed [(1#5, 5#32), (2#5, 7#32)] 0xFFFFFFFC#32 0x002081B3#32) (.add 3#5 1#5 2#5) :=
  executes_of rfl (by decide) (by decide) rfl

theorem witness_RunEndsAtEndPc :
    (∃ s : State, s.outcome = .running ∧ s.pc = s.env.endPc ∧ ∃ t, step s = .next t ∧ t.outcome = .ended) ∧
    ∃ l : Launch, l.resetPc = l.endPc :=
  ⟨⟨State.launch { someLaunch with resetPc := 0x00001004#32 }, rfl, rfl, _, rfl, rfl⟩,
    ⟨{ someLaunch with resetPc := 0x00001004#32 }, rfl⟩⟩

/-! ### Each cause of R109, and the refusal -/

theorem witness_ExceptionsExactlyAsListed_fetch : RaisedWhen (bare [] 0x00002000#32) .instructionAccessFault 0x00002000#32 :=
  ⟨by decide, by unfold codeAtPc; decide, rfl⟩

theorem witness_ExceptionsExactlyAsListed_decode :
    RaisedWhen (placed [] 0x00001000#32 0x00000073#32) .illegalInstruction 0x00000073#32 :=
  ⟨⟨rfl, by decide, by unfold codeAtPc; decide⟩, by decide, by decide⟩

theorem witness_ExceptionsExactlyAsListed_target :
    RaisedWhen (placed [] 0x00001000#32 0x00000163#32) .instructionAddressMisaligned 0x00001002#32 :=
  ⟨.beq 0#5 0#5 2#13, executes_of rfl (by decide) (by decide) rfl, by decide, rfl, by decide⟩

theorem witness_ExceptionsExactlyAsListed_loadMisaligned :
    RaisedWhen (placed [(5#5, 0x2000#32)] 0x00001000#32 0x0092A183#32) .loadAddressMisaligned 0x00002009#32 :=
  ⟨.lw 3#5 5#5 9#12, executes_of rfl (by decide) (by decide) rfl, by decide, by decide, by decide⟩

theorem witness_ExceptionsExactlyAsListed_loadAccess :
    RaisedWhen (placed [(5#5, 0x2000#32)] 0x00001000#32 0xFFF28183#32) .loadAccessFault 0x00001FFF#32 :=
  ⟨.lb 3#5 5#5 0xFFF#12, executes_of rfl (by decide) (by decide) rfl, by decide, by decide, by decide,
    not_bytesInMem_of 0 (by decide) (by decide)⟩

theorem witness_ExceptionsExactlyAsListed_storeMisaligned :
    RaisedWhen (placed [(5#5, 0x2000#32)] 0x00001000#32 0x006290A3#32) .storeAddressMisaligned 0x00002001#32 :=
  ⟨.sh 6#5 5#5 1#12, executes_of rfl (by decide) (by decide) rfl, by decide, by decide, by decide⟩

theorem witness_ExceptionsExactlyAsListed_storeAccess :
    RaisedWhen (placed [(5#5, 0x2000#32)] 0x00001000#32 0x0062A423#32) .storeAccessFault 0x00002008#32 :=
  ⟨.sw 6#5 5#5 8#12, executes_of rfl (by decide) (by decide) rfl, by decide, by decide, by decide,
    not_bytesInMem_of 0 (by decide) (by decide)⟩

theorem witness_ExceptionsExactlyAsListed_refused :
    RefusedWhen (placed [(5#5, 0x1000#32)] 0x00001000#32 0x006281A3#32) :=
  ⟨.sb 6#5 5#5 3#12, 0x1003#32, executes_of rfl (by decide) (by decide) rfl, by decide, by decide, by decide,
    by unfold BytesInMem; decide, not_bytesOutsideCode_of 0 (by decide) (by decide)⟩

theorem witness_ExceptionsExactlyAsListed_ended :
    (State.launch { someLaunch with resetPc := 0x00001004#32 }).outcome = .running ∧
    (State.launch { someLaunch with resetPc := 0x00001004#32 }).pc =
      (State.launch { someLaunch with resetPc := 0x00001004#32 }).env.endPc := ⟨rfl, rfl⟩

theorem witness_ExceptionsArePrecise :
    (∃ s t : State, s.outcome = .running ∧ step s = .next t ∧
      t.outcome = .faulted .loadAddressMisaligned 0x00002009#32 0x00001000#32) ∧
    ∃ s t : State, s.outcome = .running ∧ step s = .next t ∧ t.outcome = .refused .storeToCode 0x00001000#32 :=
  ⟨⟨placed [(5#5, 0x2000#32)] 0x00001000#32 0x0092A183#32, _, rfl, rfl, by decide⟩,
    ⟨placed [(5#5, 0x1000#32)] 0x00001000#32 0x006281A3#32, _, rfl, rfl, by decide⟩⟩

theorem witness_TerminalOutcomesStay :
    (∃ s : State, s.outcome = .ended) ∧ (∃ s : State, s.outcome = .faulted .illegalInstruction 0#32 0x1000#32) ∧
    ∃ s : State, s.outcome = .refused .storeToCode 0x1000#32 :=
  ⟨⟨State.reset.finish, rfl⟩, ⟨State.reset.raise .illegalInstruction 0#32, rfl⟩,
    ⟨State.reset.refuse .storeToCode, rfl⟩⟩

theorem witness_EveryInstructionAnswers :
    State.reset.outcome = .running ∧ State.reset.finish.outcome = .ended := ⟨rfl, rfl⟩

theorem witness_PlacedWordRuns :
    State.reset.pc.toNat % 4 = 0 ∧ Instr.wellFormed (.jal 1#5 0x100000#21) = true ∧
    ∃ t, t = State.reset.withFetchWord 32 (encode (.jal 1#5 0x100000#21)).toNat := ⟨by decide, by decide, _, rfl⟩

/-! ### Registers, reset and what a run keeps -/

theorem witness_RegisterZero :
    (31#5 : Reg) ≠ 0#5 ∧
    (Instr.dest (.lw 5#5 5#5 0#12) = some 5#5 ∧ decodeWord (0x0002A#20 ++ 5#5 ++ 0b0000011#7) = .ok (.lw 5#5 5#5 0#12)) ∧
    (Instr.dest (.jal 1#5 6#21) = some 1#5 ∧ decodeWord (0x00600#20 ++ 1#5 ++ 0b1101111#7) = .ok (.jal 1#5 6#21)) :=
  ⟨by decide, ⟨rfl, rfl⟩, ⟨rfl, rfl⟩⟩

theorem witness_ResetValues : someLaunch.ok = true ∧ (31#5 : Reg) ≠ 0#5 := by decide

theorem witness_InvAtLaunch : someLaunch.ok = true := by decide

theorem witness_StepKeepsInv :
    Invariant (State.reset.withFetchWord 32 0x00A00293) ∧
      ∃ t, step (State.reset.withFetchWord 32 0x00A00293) = .next t :=
  ⟨by unfold Invariant; decide, _, rfl⟩

theorem witness_PcStaysAligned :
    someLaunch.ok = true ∧
    ((State.launch someLaunch).pc.extractLsb' 0 2 = 0b00#2 ∧
      ∃ t, Host.Core.run Sys2Proof.core 2 (State.launch someLaunch) = .next t) ∧
    (transferTarget (bare [] 0x00001000#32) (.beq 0#5 0#5 4094#13) = some 0x00001FFE#32 ∧
      branchHolds (bare [] 0x00001000#32) (.beq 0#5 0#5 4094#13) ∧ (0x00001FFE#32).extractLsb' 0 2 ≠ 0b00#2) :=
  ⟨by decide, ⟨by decide, _, rfl⟩, by decide, rfl, by decide⟩

theorem witness_CodeNeverChanges_run :
    (∃ t, Host.Core.run Sys2Proof.core 2 (State.launch someLaunch) = .next t) ∧
    (State.launch someLaunch).env.inCode 0x1003 = true ∧
    codeAtPc { State.launch someLaunch with pc := 0x00001000#32 } :=
  ⟨⟨_, rfl⟩, by decide, by unfold codeAtPc; decide⟩

theorem witness_CodeNeverChanges_load :
    ∀ n ∈ [1, 2, 4], 0x1000#32 = (State.launch { someLaunch with initX := Vector.replicate 32 0x1000#32 }).readReg 5#5 +
        (0#12).signExtend 32 ∧ (0x1000#32).toNat % n = 0 ∧
      ∀ k, k < n → (State.launch someLaunch).env.inCode (0x1000#32 + BitVec.ofNat 32 k).toNat = true := by decide

/-- SB and SW: the byte, or the highest byte of the word, is in `CODE`. -/
theorem witness_CodeNeverChanges_store :
    (∀ i ∈ [Instr.sb 6#5 5#5 7#12], Instr.storeBytes i ≠ 0 ∧
      dataAddress (codeInside [(5#5, 0x2000#32)]) i = some 0x2007#32 ∧ (0x2007#32).toNat % i.storeBytes = 0 ∧
      BytesInMem (codeInside [(5#5, 0x2000#32)]) 0x2007#32 i.storeBytes ∧
      ∃ a ∈ storedAddresses (codeInside [(5#5, 0x2000#32)]) i, (codeInside [(5#5, 0x2000#32)]).env.inCode a = true) ∧
    (∀ i ∈ [Instr.sw 6#5 5#5 4#12], Instr.storeBytes i ≠ 0 ∧
      dataAddress (codeInside [(5#5, 0x2000#32)]) i = some 0x2004#32 ∧ (0x2004#32).toNat % i.storeBytes = 0 ∧
      BytesInMem (codeInside [(5#5, 0x2000#32)]) 0x2004#32 i.storeBytes ∧
      ∃ a ∈ storedAddresses (codeInside [(5#5, 0x2000#32)]) i, (codeInside [(5#5, 0x2000#32)]).env.inCode a = true) := by
  unfold BytesInMem; decide

/-! ### Results -/

theorem witness_DivideAndRemainder : State.reset.division = divCfg := DivOverrides.default_cfg

/-- The default obeys the ordinary law, and so does a record with other corner values (`oddDivCfg`). -/
theorem witness_EveryDivCfgCanBeLaunched :
    divCfg.Ordinary ∧ oddDivCfg.cfg.Ordinary ∧ oddDivCfg.cfg.div 7#32 0#32 = 5#32 ∧
    ∃ l : Launch, l.divOverrides = oddDivCfg ∧ ∃ s, Host.Core.run Sys2Proof.core 2 (State.launch l) = .next s :=
  ⟨by simpa using DivOverrides.cfg_ordinary .default, DivOverrides.cfg_ordinary _, by decide,
    { someLaunch with divOverrides := oddDivCfg }, rfl, _, rfl⟩

theorem witness_DivisionLaw :
    ((1#32 : Word) ≠ 0#32 ∧ ¬((0x80000000#32 : Word) = 0x80000000#32 ∧ (1#32 : Word) = 0xFFFFFFFF#32)) ∧
    ((0xFFFFFFFF#32 : Word) ≠ 0#32 ∧
      ¬((0x7FFFFFFF#32 : Word) = 0x80000000#32 ∧ (0xFFFFFFFF#32 : Word) = 0xFFFFFFFF#32)) := by
  decide

/-- JAL at the least offset, and at the least offset whose target is no multiple of 4. -/
theorem witness_Jumps_jal :
    (0x00000000#32 = (bare [] 0x00100000#32).pc + (0x100000#21).signExtend 32 ∧ (0x00000000#32).toNat % 4 = 0) ∧
    (0x00001002#32 = (bare [] 0x00001000#32).pc + (2#21).signExtend 32 ∧ (0x00001002#32).toNat % 4 ≠ 0) := by decide

/-- JALR with bit 0 cleared on the way to an aligned target, and to one that is not. -/
theorem witness_Jumps_jalr :
    (0x00002000#32 = ((bare [(5#5, 0x2000#32)] 0#32).readReg 5#5 + (1#12).signExtend 32) &&& 0xFFFFFFFE#32 ∧
      (0x00002000#32).toNat % 4 = 0) ∧
    (0x00002002#32 = ((bare [(5#5, 0x2000#32)] 0#32).readReg 5#5 + (3#12).signExtend 32) &&& 0xFFFFFFFE#32 ∧
      (0x00002002#32).toNat % 4 ≠ 0) := by decide

theorem witness_TransferOutOfCode_jal :
    ∃ s, s = placed [] 0x00001000#32 0x008000EF#32 ∧ Executes s (.jal 1#5 8#21) ∧
      transferTarget s (.jal 1#5 8#21) = some 0x00001008#32 ∧ branchHolds s (.jal 1#5 8#21) ∧
      (0x00001008#32).toNat % 4 = 0 ∧ s.env.inCode (0x00001008#32).toNat = false ∧ 0x00001008#32 ≠ s.env.endPc :=
  ⟨_, rfl, executes_of rfl (by decide) (by decide) rfl, by decide, trivial, by decide, by decide, by decide⟩

theorem witness_TransferOutOfCode_jalr :
    ∃ s, s = placed [(5#5, 0x2000#32)] 0x00001000#32 0x004282E7#32 ∧ Executes s (.jalr 5#5 5#5 4#12) ∧
      transferTarget s (.jalr 5#5 5#5 4#12) = some 0x00002004#32 ∧ branchHolds s (.jalr 5#5 5#5 4#12) ∧
      (0x00002004#32).toNat % 4 = 0 ∧ s.env.inCode (0x00002004#32).toNat = false ∧ 0x00002004#32 ≠ s.env.endPc :=
  ⟨_, rfl, executes_of rfl (by decide) (by decide) rfl, by decide, trivial, by decide, by decide, by decide⟩

theorem witness_TransferOutOfCode_branch :
    ∃ s, s = placed [(1#5, 5#32), (2#5, 5#32)] 0x00001000#32 0x00208863#32 ∧ Executes s (.beq 1#5 2#5 16#13) ∧
      transferTarget s (.beq 1#5 2#5 16#13) = some 0x00001010#32 ∧ branchHolds s (.beq 1#5 2#5 16#13) ∧
      (0x00001010#32).toNat % 4 = 0 ∧ s.env.inCode (0x00001010#32).toNat = false ∧ 0x00001010#32 ≠ s.env.endPc :=
  ⟨_, rfl, executes_of rfl (by decide) (by decide) rfl, by decide, by unfold branchHolds; decide, by decide, by decide,
    by decide⟩

/-- Two registers with the values given, at pc 0x2000. -/
def pair (a b : Word) : State := bare [(1#5, a), (2#5, b)] 0x00002000#32

/-- For each of BEQ, BNE, BLT, BGE, BLTU, BGEU, in this order, operands for which the condition holds: of the three pairs of
spec/95_test_vectors.md 2.9 the one that discriminates, or equal operands where equality is enough. -/
theorem witness_ConditionalBranches_holds :
    (pair 5#32 5#32).readReg 1#5 = (pair 5#32 5#32).readReg 2#5 ∧
    (pair 1#32 0xFFFFFFFF#32).readReg 1#5 ≠ (pair 1#32 0xFFFFFFFF#32).readReg 2#5 ∧
    ((pair 0x80000000#32 0x7FFFFFFF#32).readReg 1#5).toInt < ((pair 0x80000000#32 0x7FFFFFFF#32).readReg 2#5).toInt ∧
    ((pair 5#32 5#32).readReg 1#5).toInt ≥ ((pair 5#32 5#32).readReg 2#5).toInt ∧
    ((pair 1#32 0xFFFFFFFF#32).readReg 1#5).toNat < ((pair 1#32 0xFFFFFFFF#32).readReg 2#5).toNat ∧
    ((pair 5#32 5#32).readReg 1#5).toNat ≥ ((pair 5#32 5#32).readReg 2#5).toNat := by decide

/-- The same for a condition that does not hold. -/
theorem witness_ConditionalBranches_holdsNot :
    ¬(pair 1#32 0xFFFFFFFF#32).readReg 1#5 = (pair 1#32 0xFFFFFFFF#32).readReg 2#5 ∧
    ¬(pair 5#32 5#32).readReg 1#5 ≠ (pair 5#32 5#32).readReg 2#5 ∧
    ¬((pair 5#32 5#32).readReg 1#5).toInt < ((pair 5#32 5#32).readReg 2#5).toInt ∧
    ¬((pair 0x80000000#32 0x7FFFFFFF#32).readReg 1#5).toInt ≥ ((pair 0x80000000#32 0x7FFFFFFF#32).readReg 2#5).toInt ∧
    ¬((pair 5#32 5#32).readReg 1#5).toNat < ((pair 5#32 5#32).readReg 2#5).toNat ∧
    ¬((pair 1#32 0xFFFFFFFF#32).readReg 1#5).toNat ≥ ((pair 1#32 0xFFFFFFFF#32).readReg 2#5).toNat := by decide

/-- The other hypothesis of a taken branch, at each of those states (the pc does not depend on the operands): the least
offset, the greatest with an aligned target, and the greatest of all, whose target is no multiple of 4. -/
theorem witness_ConditionalBranches_target :
    ∀ p ∈ [(5, 5), (1, 0xFFFFFFFF), (0x80000000, 0x7FFFFFFF)],
      ((pair (BitVec.ofNat 32 p.1) (BitVec.ofNat 32 p.2)).pc + (0x1000#13).signExtend 32).toNat % 4 = 0 ∧
      ((pair (BitVec.ofNat 32 p.1) (BitVec.ofNat 32 p.2)).pc + (4092#13).signExtend 32).toNat % 4 = 0 ∧
      ((pair (BitVec.ofNat 32 p.1) (BitVec.ofNat 32 p.2)).pc + (4094#13).signExtend 32).toNat % 4 ≠ 0 := by decide

/-- An aligned access of 1, 2 or 4 bytes inside `MEM` and outside `CODE`, at its first and at its last address. -/
theorem witness_LoadsAndStores_inside :
    ∀ n ∈ [1, 2, 4], ∀ o ∈ [0, 8 - n], ∀ s, s = bare [(5#5, 0x2000#32)] 0#32 → ∀ addr,
      addr = 0x2000#32 + BitVec.ofNat 32 o →
      addr = s.readReg 5#5 + (BitVec.ofNat 12 o).signExtend 32 ∧ addr.toNat % n = 0 ∧
        (∀ k, k < n → s.env.inMem (addr + BitVec.ofNat 32 k).toNat = true) ∧
        ∀ k, k < n → s.env.inCode (addr + BitVec.ofNat 32 k).toNat = false := by
  rintro n hn o ho s rfl addr rfl
  revert n o; decide

/-- An aligned access of 1, 2 or 4 bytes the first of which is outside `MEM`. -/
theorem witness_LoadsAndStores_outside :
    ∀ n ∈ [1, 2, 4], 0x2008#32 = (bare [(5#5, 0x2000#32)] 0#32).readReg 5#5 + (8#12).signExtend 32 ∧
      (0x2008#32).toNat % n = 0 ∧ 0 < n ∧
      (bare [(5#5, 0x2000#32)] 0#32).env.inMem (0x2008#32 + BitVec.ofNat 32 0).toNat = false := by decide

/-- An aligned access of 4 bytes of which only the third and fourth are outside `MEM`. -/
theorem witness_LoadsAndStores_partOutside :
    0x2004#32 = (sixBytes [(5#5, 0x2000#32)]).readReg 5#5 + (4#12).signExtend 32 ∧ (0x2004#32).toNat % 4 = 0 ∧
    ¬BytesInMem (sixBytes [(5#5, 0x2000#32)]) 0x2004#32 4 ∧ ¬BytesInMem (sixBytes [(5#5, 0x2000#32)]) 0x2008#32 1 ∧
    ¬BytesInMem (sixBytes [(5#5, 0x2000#32)]) 0x2006#32 2 :=
  ⟨by decide, by decide, not_bytesInMem_of 3 (by decide) (by decide), not_bytesInMem_of 0 (by decide) (by decide),
    not_bytesInMem_of 1 (by decide) (by decide)⟩

/-- An aligned store of 1, 2 or 4 bytes inside `MEM` whose highest byte is in `CODE`. -/
theorem witness_StoreInstructions_code :
    (0x2007#32 = (codeInside [(5#5, 0x2000#32)]).readReg 5#5 + (7#12).signExtend 32 ∧ (0x2007#32).toNat % 1 = 0 ∧
      BytesInMem (codeInside [(5#5, 0x2000#32)]) 0x2007#32 1 ∧
      ¬BytesOutsideCode (codeInside [(5#5, 0x2000#32)]) 0x2007#32 1) ∧
    (0x2006#32 = (codeInside [(5#5, 0x2000#32)]).readReg 5#5 + (6#12).signExtend 32 ∧ (0x2006#32).toNat % 2 = 0 ∧
      BytesInMem (codeInside [(5#5, 0x2000#32)]) 0x2006#32 2 ∧
      ¬BytesOutsideCode (codeInside [(5#5, 0x2000#32)]) 0x2006#32 2) ∧
    (0x2004#32 = (codeInside [(5#5, 0x2000#32)]).readReg 5#5 + (4#12).signExtend 32 ∧ (0x2004#32).toNat % 4 = 0 ∧
      BytesInMem (codeInside [(5#5, 0x2000#32)]) 0x2004#32 4 ∧
      ¬BytesOutsideCode (codeInside [(5#5, 0x2000#32)]) 0x2004#32 4) := by
  refine ⟨⟨by decide, by decide, by unfold BytesInMem; decide, not_bytesOutsideCode_of 0 (by decide) (by decide)⟩,
    ⟨by decide, by decide, by unfold BytesInMem; decide, not_bytesOutsideCode_of 1 (by decide) (by decide)⟩,
    ⟨by decide, by decide, by unfold BytesInMem; decide, not_bytesOutsideCode_of 3 (by decide) (by decide)⟩⟩

/-- A misaligned access of 2 bytes, and of 4 bytes at the three kinds of address, the last one outside `MEM` as well. -/
theorem witness_LoadsAndStores_misaligned :
    (0x2001#32 = (bare [(5#5, 0x2000#32)] 0#32).readReg 5#5 + (1#12).signExtend 32 ∧ (0x2001#32).toNat % 2 ≠ 0) ∧
    (0x2001#32 = (bare [(5#5, 0x2000#32)] 0#32).readReg 5#5 + (1#12).signExtend 32 ∧ (0x2001#32).toNat % 4 ≠ 0) ∧
    (0x2002#32 = (bare [(5#5, 0x2000#32)] 0#32).readReg 5#5 + (2#12).signExtend 32 ∧ (0x2002#32).toNat % 4 ≠ 0) ∧
    (0x200B#32 = (bare [(5#5, 0x2000#32)] 0#32).readReg 5#5 + (11#12).signExtend 32 ∧ (0x200B#32).toNat % 4 ≠ 0) := by
  decide

theorem witness_LittleEndianMixedWidths :
    (∃ s t, s = bare [(5#5, 0x2000#32), (6#5, 0xDEADBEEF#32)] 0x00001000#32 ∧ s.outcome = .running ∧
      exec (.sw 6#5 5#5 4#12) s = .next t ∧ t.outcome = .running ∧
      ∀ k, k < 4 → effectiveAddress t 5#5 (BitVec.ofNat 12 (4 + k)) =
        effectiveAddress s 5#5 4#12 + BitVec.ofNat 32 k) ∧
    codeAtPc (placed [] 0x00001000#32 0x00A00293#32) :=
  ⟨⟨_, _, rfl, rfl, rfl, rfl, by decide⟩, by unfold codeAtPc; decide⟩

theorem witness_EffectiveAddressWraps :
    (0xFFFFFFFF#32).toNat % 1 = 0 ∧ (0xFFFFFFFE#32).toNat % 2 = 0 ∧ (0xFFFFFFFC#32).toNat % 4 = 0 := by decide

/-- Each of LH, LHU, LW and of SH, SW at a misaligned address; and states that such an instruction takes to its exception. -/
theorem witness_DataAlignment :
    (∀ i ∈ [Instr.lh 3#5 5#5 1#12, .lhu 3#5 5#5 1#12, .lw 3#5 5#5 1#12],
      dataAddress (bare [(5#5, 0x2000#32)] 0#32) i = some 0x2001#32 ∧ i.loadBytes ≠ 0 ∧
        (0x2001#32).toNat % i.loadBytes ≠ 0) ∧
    (∀ i ∈ [Instr.sh 6#5 5#5 1#12, .sw 6#5 5#5 1#12],
      dataAddress (bare [(5#5, 0x2000#32)] 0#32) i = some 0x2001#32 ∧ i.storeBytes ≠ 0 ∧
        (0x2001#32).toNat % i.storeBytes ≠ 0) ∧
    (∃ s t, s.outcome = .running ∧ exec (.lhu 3#5 5#5 3#12) s = .next t ∧
      t.outcome = .faulted .loadAddressMisaligned 0x2003#32 0x1000#32) ∧
    ∃ s t, s.outcome = .running ∧ exec (.sw 6#5 5#5 3#12) s = .next t ∧
      t.outcome = .faulted .storeAddressMisaligned 0x2003#32 0x1000#32 :=
  ⟨by decide, by decide, ⟨bare [(5#5, 0x2000#32)] 0x1000#32, _, rfl, rfl, by decide⟩,
    ⟨bare [(5#5, 0x2000#32)] 0x1000#32, _, rfl, rfl, by decide⟩⟩

/-- Each load and store with its lowest byte outside `MEM`, and LW and SW with only their upper two bytes outside. -/
theorem witness_AccessOutsideMem :
    (∀ i ∈ [Instr.lb 3#5 5#5 8#12, .lh 3#5 5#5 8#12, .lbu 3#5 5#5 8#12, .lhu 3#5 5#5 8#12, .lw 3#5 5#5 8#12],
      dataAddress (bare [(5#5, 0x2000#32)] 0#32) i = some 0x2008#32 ∧ 0 < i.loadBytes ∧
        (0x2008#32).toNat % i.loadBytes = 0) ∧
    (∀ i ∈ [Instr.sb 6#5 5#5 8#12, .sh 6#5 5#5 8#12, .sw 6#5 5#5 8#12],
      dataAddress (bare [(5#5, 0x2000#32)] 0#32) i = some 0x2008#32 ∧ 0 < i.storeBytes ∧
        (0x2008#32).toNat % i.storeBytes = 0) ∧
    (bare [(5#5, 0x2000#32)] 0#32).env.inMem (0x2008#32 + BitVec.ofNat 32 0).toNat = false ∧
    (dataAddress (sixBytes [(5#5, 0x2000#32)]) (.lw 3#5 5#5 4#12) = some 0x2004#32 ∧
      dataAddress (sixBytes [(5#5, 0x2000#32)]) (.sw 6#5 5#5 4#12) = some 0x2004#32 ∧
      3 < Instr.loadBytes (.lw 3#5 5#5 4#12) ∧ 3 < Instr.storeBytes (.sw 6#5 5#5 4#12) ∧ (0x2004#32).toNat % 4 = 0 ∧
      (sixBytes [(5#5, 0x2000#32)]).env.inMem (0x2004#32 + BitVec.ofNat 32 3).toNat = false) := by decide

/-! ### What instructions leave alone -/

/-- A store that changes memory and an instruction that stores nothing, each with a register that is not its destination. -/
theorem witness_FrameOfEveryInstruction :
    (∃ s t, exec (.sw 6#5 5#5 0#12) s = .next t ∧
      storedAddresses s (.sw 6#5 5#5 0#12) = [0x2000, 0x2001, 0x2002, 0x2003] ∧
      0x2004 ∉ storedAddresses s (.sw 6#5 5#5 0#12)) ∧
    ∃ s t, exec (.add 3#5 1#5 2#5) s = .next t ∧ Instr.dest (.add 3#5 1#5 2#5) ≠ some 4#5 ∧
      0x2000 ∉ storedAddresses s (.add 3#5 1#5 2#5) :=
  ⟨⟨bare [(5#5, 0x2000#32)] 0#32, _, rfl, by decide, by decide⟩, ⟨bare [] 0#32, _, rfl, by decide, by decide⟩⟩

/-- A taken branch, one that is not taken, and an instruction that transfers no control. -/
theorem witness_PcAdvance :
    (∃ s t, s.outcome = .running ∧ exec (.bne 1#5 2#5 16#13) s = .next t ∧ t.outcome = .running ∧
      transferTarget s (.bne 1#5 2#5 16#13) = some 0x1010#32 ∧ branchHolds s (.bne 1#5 2#5 16#13)) ∧
    (∃ s t, s.outcome = .running ∧ exec (.bne 1#5 1#5 16#13) s = .next t ∧ t.outcome = .running ∧
      transferTarget s (.bne 1#5 1#5 16#13) = some 0x1010#32 ∧ ¬branchHolds s (.bne 1#5 1#5 16#13)) ∧
    ∃ s t, s.outcome = .running ∧ exec (.lui 5#5 1#20) s = .next t ∧ t.outcome = .running ∧
      transferTarget s (.lui 5#5 1#20) = none :=
  ⟨⟨bare [(1#5, 1#32), (2#5, 2#32)] 0x1000#32, _, rfl, rfl, by decide, by decide, by unfold branchHolds; decide⟩,
    ⟨bare [(1#5, 1#32)] 0x1000#32, _, rfl, rfl, by decide, by decide, by unfold branchHolds; decide⟩,
    ⟨bare [] 0xFFFFFFFC#32, _, rfl, rfl, by decide, rfl⟩⟩

/-- Two states that agree on x1 and x2 and differ in x3 and x4. -/
theorem witness_OnlyTheSourcesMatter :
    ∃ s u, s = bare [(1#5, 5#32), (2#5, 7#32)] 0x1000#32 ∧
      u = bare [(1#5, 5#32), (2#5, 7#32), (3#5, 9#32), (4#5, 1#32)] 0x1000#32 ∧
      s.outcome = .running ∧ u.outcome = .running ∧ u.pc = s.pc ∧ u.mem = s.mem ∧ u.env = s.env ∧ u ≠ s ∧
      ∀ r ∈ Instr.sources (.add 3#5 1#5 2#5), u.readReg r = s.readReg r :=
  ⟨_, _, rfl, rfl, rfl, rfl, rfl, rfl, rfl, by decide, by decide⟩

theorem witness_OnlyStoresChangeMemory :
    ∃ s t, s = placed [(5#5, 0x2000#32), (6#5, 0xDEADBEEF#32)] 0x00001000#32 0x0062A223#32 ∧ step s = .next t ∧
      t.mem.read 0x2007 ≠ s.mem.read 0x2007 :=
  ⟨_, _, rfl, rfl, by decide⟩

theorem witness_JumpToItselfRunsForEver :
    ∃ s, s = placed [] 0x00001000#32 0x0000006F#32 ∧ s.pc.toNat % 4 = 0 ∧ Fetches s ∧ wordAtPc s = 0x0000006F#32 :=
  ⟨_, rfl, by decide, ⟨rfl, by decide, by unfold codeAtPc; decide⟩, by decide⟩

end Sys2Proof.Tests
end

/-! # The launch parameters along a run, and the openness of `DIVCFG` (00_scope.md R5; 41_arithmetic.md R59) -/

namespace Sys2Proof.Machine

/-! ## The launch parameters under each instruction -/

/-- The five shapes of an instruction's meaning: it computes into a register, loads, stores, jumps or branches. -/
theorem exec_shapes (i : Instr) (s : State) :
    (∃ rd v, exec i s = .next (s.retire rd v)) ∨
    (∃ rd addr n extend, exec i s = s.load rd addr n extend) ∨
    (∃ addr n v, exec i s = s.store addr n v) ∨
    (∃ rd target, exec i s = s.jump rd target) ∨
    (∃ taken target, exec i s = s.branch taken target) := by
  cases i with
  | lb | lh | lbu | lhu | lw => exact .inr (.inl ⟨_, _, _, _, rfl⟩)
  | sb | sh | sw => exact .inr (.inr (.inl ⟨_, _, _, rfl⟩))
  | jal | jalr => exact .inr (.inr (.inr (.inl ⟨_, _, rfl⟩)))
  | beq | bne | blt | bge | bltu | bgeu => exact .inr (.inr (.inr (.inr ⟨_, _, rfl⟩)))
  | _ => exact .inl ⟨_, _, rfl⟩

theorem State.load_keeps_env (s : State) (rd : Reg) (addr : Word) (n : Nat) (extend : BitVec (8 * n) → Word) :
    ∃ t, s.load rd addr n extend = .next t ∧ t.env = s.env := by
  rcases s.load_cases rd addr n extend with ⟨-, e⟩ | ⟨-, -, e⟩ | ⟨-, -, e⟩ <;> exact ⟨_, e, by simp⟩

theorem State.store_keeps_env (s : State) (addr : Word) (n : Nat) (v : BitVec (8 * n)) :
    ∃ t, s.store addr n v = .next t ∧ t.env = s.env := by
  rcases s.store_cases addr n v with ⟨-, e⟩ | ⟨-, -, e⟩ | ⟨-, -, -, e⟩ | ⟨-, -, -, e⟩ <;> exact ⟨_, e, by simp⟩

theorem State.jump_keeps_env (s : State) (rd : Reg) (target : Word) :
    ∃ t, s.jump rd target = .next t ∧ t.env = s.env := by
  rcases s.jump_cases rd target with ⟨-, e⟩ | ⟨-, e⟩ <;> exact ⟨_, e, by simp⟩

theorem State.branch_keeps_env (s : State) (taken : Bool) (target : Word) :
    ∃ t, s.branch taken target = .next t ∧ t.env = s.env := by
  rcases s.branch_cases taken target with ⟨-, e⟩ | ⟨-, -, e⟩ | ⟨-, -, e⟩ <;> exact ⟨_, e, by simp⟩

/-- Every instruction answers a next state, with the launch parameters as they were (R5). -/
theorem exec_keeps_env (i : Instr) (s : State) : ∃ t, exec i s = .next t ∧ t.env = s.env := by
  rcases exec_shapes i s with ⟨rd, v, e⟩ | ⟨rd, addr, n, extend, e⟩ | ⟨addr, n, v, e⟩ | ⟨rd, target, e⟩ |
    ⟨taken, target, e⟩
  · exact ⟨_, e, s.retire_env rd v⟩
  · exact e ▸ s.load_keeps_env rd addr n extend
  · exact e ▸ s.store_keeps_env addr n v
  · exact e ▸ s.jump_keeps_env rd target
  · exact e ▸ s.branch_keeps_env taken target

/-! ## The launch parameters under a step and a run -/

/-- What a step can be, in the order of 60_exceptions.md R115: nothing more to do, the end of the run, a fetch outside
`CODE`, an illegal word, or the decoded instruction. -/
theorem step_cases (s : State) :
    (s.outcome ≠ .running ∧ step s = s.afterRun) ∨
    (s.outcome = .running ∧ s.pc = s.env.endPc ∧ step s = .next s.finish) ∨
    (s.outcome = .running ∧ s.pc ≠ s.env.endPc ∧ (∃ a ∈ accessAddresses s.pc 4, s.env.inCode a = false) ∧
      step s = .next (s.raise .instructionAccessFault s.pc)) ∨
    (Fetches s ∧ (∃ c, decodeWord (s.peek s.pc 4) = .error c) ∧
      step s = .next (s.raise .illegalInstruction (s.peek s.pc 4))) ∨
    (Fetches s ∧ ∃ i, decodeWord (s.peek s.pc 4) = .ok i ∧ step s = exec i s) := by
  by_cases hr : s.outcome = .running
  · by_cases he : s.pc = s.env.endPc
    · exact .inr (.inl ⟨hr, he, by simp [step, hr, he]⟩)
    · rcases s.fetch_cases with ⟨hc, hf⟩ | ⟨hc, hf⟩
      · exact .inr (.inr (.inl ⟨hr, he, hc, by simp [step, hr, he, hf]⟩))
      · cases hd : decodeWord (s.peek s.pc 4) with
        | error c => exact .inr (.inr (.inr (.inl ⟨⟨hr, he, hc⟩, ⟨c, rfl⟩, by simp [step, hr, he, hf, hd]⟩)))
        | ok i => exact .inr (.inr (.inr (.inr ⟨⟨hr, he, hc⟩, i, rfl, by simp [step, hr, he, hf, hd]⟩)))
  · refine .inl ⟨hr, ?_⟩
    unfold step
    split
    · next h => exact absurd h hr
    · rfl

/-- Where a stopped run answers a state, it is the same state (60_exceptions.md R108). -/
theorem State.eq_of_afterRun {s t : State} (h : s.afterRun = .next t) : t = s := by
  unfold State.afterRun at h
  split at h <;> cases h <;> rfl

/-- No step changes the launch parameters (R5). -/
theorem step_keeps_env {s t : State} (h : step s = .next t) : t.env = s.env := by
  rcases step_cases s with ⟨-, e⟩ | ⟨-, -, e⟩ | ⟨-, -, -, e⟩ | ⟨-, -, e⟩ | ⟨-, i, -, e⟩ <;> rw [e] at h
  · rw [State.eq_of_afterRun h]
  · cases h; exact s.finish_env
  · cases h; exact s.raise_env ..
  · cases h; exact s.raise_env ..
  · obtain ⟨u, hu, henv⟩ := exec_keeps_env i s
    cases hu.symm.trans h
    exact henv

theorem run_succ_eq_next {M : Host.Core} {k : Nat} {s t : M.State} :
    M.run (k + 1) s = .next t ↔ ∃ u, M.step s = .next u ∧ M.run k u = .next t := by
  rw [Host.Core.run]
  cases M.step s <;> simp

/-- What every step keeps holds after any run from a state in which it holds. -/
theorem run_keeps {M : Host.Core} {P : M.State → Prop} (hstep : ∀ s t, M.step s = .next t → P s → P t) (k : Nat)
    {s t : M.State} (hrun : M.run k s = .next t) (hs : P s) : P t := by
  induction k generalizing s with
  | zero => cases hrun; exact hs
  | succ k ih =>
    obtain ⟨u, hu, hrun⟩ := run_succ_eq_next.1 hrun
    exact ih hrun (hstep s u hu hs)

/-- No run changes the launch parameters (R5). -/
theorem run_keeps_env {k : Nat} {s t : State} (hrun : Host.Core.run Sys2Proof.core k s = .next t) : t.env = s.env :=
  run_keeps (M := Sys2Proof.core) (P := fun u : State => u.env = s.env)
    (fun _ _ hu h => (step_keeps_env hu).trans h) k hrun rfl

/-- Throughout a run from a launch the record of the divisions is the one launched with. -/
theorem division_of_run_launch {l : Launch} {k : Nat} {s : State}
    (hrun : Host.Core.run Sys2Proof.core k (State.launch l) = .next s) : s.division = l.divOverrides.cfg :=
  congrArg (fun e : Env => e.divOverrides.cfg) (run_keeps_env hrun)

/-! ## The records that obey the ordinary law -/

theorem resultByZero_of_lookup {listed : List (Word × Word)} {a v : Word} (default : Word → Word → Word)
    (h : listed.lookup a = some v) : resultByZero listed default a = v := by
  simp [resultByZero, h]

/-- The results by zero of a record given by its corner values. -/
theorem DivOverrides.cfg_byZero (o : DivOverrides) (a : Word) :
    o.cfg.div a 0#32 = resultByZero o.divByZero divCfg.div a ∧
    o.cfg.divu a 0#32 = resultByZero o.divuByZero divCfg.divu a ∧
    o.cfg.rem a 0#32 = resultByZero o.remByZero divCfg.rem a ∧
    o.cfg.remu a 0#32 = resultByZero o.remuByZero divCfg.remu a := by
  simp [DivOverrides.cfg]

/-- Its results in the signed overflow. -/
theorem DivOverrides.cfg_overflow (o : DivOverrides) :
    o.cfg.div 0x80000000#32 0xFFFFFFFF#32 = o.divOverflow.getD (divCfg.div 0x80000000#32 0xFFFFFFFF#32) ∧
    o.cfg.rem 0x80000000#32 0xFFFFFFFF#32 = o.remOverflow.getD (divCfg.rem 0x80000000#32 0xFFFFFFFF#32) := by
  simp [DivOverrides.cfg, divOverflows]

/-- Two records that obey the ordinary law and agree by zero and in the signed overflow are equal: the law leaves nothing
else open (R59). -/
theorem DivCfg.eq_of_ordinary {c d : DivCfg} (hc : c.Ordinary) (hd : d.Ordinary)
    (hzero : ∀ a, c.div a 0#32 = d.div a 0#32 ∧ c.divu a 0#32 = d.divu a 0#32 ∧
      c.rem a 0#32 = d.rem a 0#32 ∧ c.remu a 0#32 = d.remu a 0#32)
    (hover : c.div 0x80000000#32 0xFFFFFFFF#32 = d.div 0x80000000#32 0xFFFFFFFF#32 ∧
      c.rem 0x80000000#32 0xFFFFFFFF#32 = d.rem 0x80000000#32 0xFFFFFFFF#32) : c = d := by
  have hsigned : ∀ a b, c.div a b = d.div a b ∧ c.rem a b = d.rem a b := by
    intro a b
    by_cases hb : b = 0#32
    · obtain ⟨hdiv, -, hrem, -⟩ := hzero a
      exact hb ▸ ⟨hdiv, hrem⟩
    · by_cases ho : a = 0x80000000#32 ∧ b = 0xFFFFFFFF#32
      · obtain ⟨rfl, rfl⟩ := ho
        exact hover
      · obtain ⟨cdiv, crem⟩ := hc.1 a b hb ho
        obtain ⟨ddiv, drem⟩ := hd.1 a b hb ho
        exact ⟨cdiv.trans ddiv.symm, crem.trans drem.symm⟩
  have hunsigned : ∀ a b, c.divu a b = d.divu a b ∧ c.remu a b = d.remu a b := by
    intro a b
    by_cases hb : b = 0#32
    · obtain ⟨-, hdivu, -, hremu⟩ := hzero a
      exact hb ▸ ⟨hdivu, hremu⟩
    · obtain ⟨cdivu, cremu⟩ := hc.2 a b hb
      obtain ⟨ddivu, dremu⟩ := hd.2 a b hb
      exact ⟨cdivu.trans ddivu.symm, cremu.trans dremu.symm⟩
  cases c
  cases d
  rw [DivCfg.mk.injEq]
  exact ⟨funext₂ fun a b => (hsigned a b).1, funext₂ fun a b => (hunsigned a b).1,
    funext₂ fun a b => (hsigned a b).2, funext₂ fun a b => (hunsigned a b).2⟩

/-- Corner values that list every result by zero of a record with the ordinary law, and those of its signed overflow, give
that record. -/
theorem DivOverrides.cfg_eq_of_listed {o : DivOverrides} {c : DivCfg} (hc : c.Ordinary)
    (hdiv : ∀ a, o.divByZero.lookup a = some (c.div a 0#32))
    (hdivu : ∀ a, o.divuByZero.lookup a = some (c.divu a 0#32))
    (hrem : ∀ a, o.remByZero.lookup a = some (c.rem a 0#32))
    (hremu : ∀ a, o.remuByZero.lookup a = some (c.remu a 0#32))
    (hdivOver : o.divOverflow = some (c.div 0x80000000#32 0xFFFFFFFF#32))
    (hremOver : o.remOverflow = some (c.rem 0x80000000#32 0xFFFFFFFF#32)) : o.cfg = c := by
  refine DivCfg.eq_of_ordinary o.cfg_ordinary hc (fun a => ?_) (by simp [o.cfg_overflow, hdivOver, hremOver])
  obtain ⟨zdiv, zdivu, zrem, zremu⟩ := o.cfg_byZero a
  exact ⟨zdiv.trans (resultByZero_of_lookup _ (hdiv a)), zdivu.trans (resultByZero_of_lookup _ (hdivu a)),
    zrem.trans (resultByZero_of_lookup _ (hrem a)), zremu.trans (resultByZero_of_lookup _ (hremu a))⟩

/-- Every record that obeys the ordinary law is given by some corner values (R5, R59). -/
theorem DivCfg.exists_overrides {c : DivCfg} (hc : c.Ordinary) : ∃ o : DivOverrides, o.cfg = c := by
  obtain ⟨divs, hdiv⟩ := exists_listed fun a => c.div a 0#32
  obtain ⟨divus, hdivu⟩ := exists_listed fun a => c.divu a 0#32
  obtain ⟨rems, hrem⟩ := exists_listed fun a => c.rem a 0#32
  obtain ⟨remus, hremu⟩ := exists_listed fun a => c.remu a 0#32
  exact ⟨⟨divs, divus, rems, remus, some _, some _⟩, DivOverrides.cfg_eq_of_listed hc hdiv hdivu hrem hremu rfl rfl⟩

/-! ## The four divisions -/

/-- The state after a computing instruction is the one that `Retires` describes (R11). -/
theorem retires_retire (s : State) (rd : Reg) (v : Word) : Retires s (s.retire rd v) rd v :=
  ⟨s.readReg_retire rd v, s.retire_pc rd v, fun _ => by rw [s.retire_mem], s.retire_outcome rd v, s.retire_env rd v⟩

theorem dividesBy_div : DividesBy .div DivCfg.div := fun _ _ _ s => ⟨_, rfl, retires_retire s _ _⟩

theorem dividesBy_divu : DividesBy .divu DivCfg.divu := fun _ _ _ s => ⟨_, rfl, retires_retire s _ _⟩

theorem dividesBy_rem : DividesBy .rem DivCfg.rem := fun _ _ _ s => ⟨_, rfl, retires_retire s _ _⟩

theorem dividesBy_remu : DividesBy .remu DivCfg.remu := fun _ _ _ s => ⟨_, rfl, retires_retire s _ _⟩

/-- Settles O29: the corner values of the record are listed for the launch, no run changes them, and the four divisions
read them from the state. -/
theorem everyDivCfgCanBeLaunched : Obligations.EveryDivCfgCanBeLaunched := by
  intro c hc
  obtain ⟨o, rfl⟩ := DivCfg.exists_overrides hc
  refine ⟨o, ?_⟩
  rintro l k s rfl hrun
  have hdiv : s.division = l.divOverrides.cfg := division_of_run_launch hrun
  rw [← hdiv]
  exact ⟨rfl, fun rd rs1 rs2 => ⟨dividesBy_div rd rs1 rs2 s, dividesBy_divu rd rs1 rs2 s,
    dividesBy_rem rd rs1 rs2 s, dividesBy_remu rd rs1 rs2 s⟩⟩

end Sys2Proof.Machine

/-! # What an instruction can do, and what it leaves alone (10_state.md R9, R11, R12) -/

namespace Sys2Proof.Machine

/-- The shape of an instruction's meaning, with the values that it computes from the state before. The destination is not
in it: `Instr.dest` names it. -/
inductive Shape where
  /-- A result goes to the destination. -/
  | compute (v : Word)
  /-- A load from `addr`; the extended value goes to the destination. -/
  | load (addr : Word) (n : Nat) (extend : BitVec (8 * n) → Word)
  /-- A store at `addr`. -/
  | store (addr : Word) (n : Nat) (v : BitVec (8 * n))
  /-- A jump; the link goes to the destination. -/
  | jump (target : Word)
  /-- A conditional branch. -/
  | branch (taken : Bool) (target : Word)

/-- The shape of each instruction at a state. -/
def shapeOf (s : State) : Instr → Shape
  | .lui _ imm => .compute (upperImm imm)
  | .auipc _ imm => .compute (s.pc + upperImm imm)
  | .add _ rs1 rs2 => .compute (s.readReg rs1 + s.readReg rs2)
  | .addi _ rs1 imm => .compute (s.readReg rs1 + imm12 imm)
  | .sub _ rs1 rs2 => .compute (s.readReg rs1 - s.readReg rs2)
  | .mul _ rs1 rs2 => .compute (mulLow (s.readReg rs1) (s.readReg rs2))
  | .mulh _ rs1 rs2 => .compute (mulHighSigned (s.readReg rs1) (s.readReg rs2))
  | .mulhsu _ rs1 rs2 => .compute (mulHighSignedUnsigned (s.readReg rs1) (s.readReg rs2))
  | .mulhu _ rs1 rs2 => .compute (mulHighUnsigned (s.readReg rs1) (s.readReg rs2))
  | .div _ rs1 rs2 => .compute (s.division.div (s.readReg rs1) (s.readReg rs2))
  | .divu _ rs1 rs2 => .compute (s.division.divu (s.readReg rs1) (s.readReg rs2))
  | .rem _ rs1 rs2 => .compute (s.division.rem (s.readReg rs1) (s.readReg rs2))
  | .remu _ rs1 rs2 => .compute (s.division.remu (s.readReg rs1) (s.readReg rs2))
  | .xor _ rs1 rs2 => .compute (s.readReg rs1 ^^^ s.readReg rs2)
  | .xori _ rs1 imm => .compute (s.readReg rs1 ^^^ imm12 imm)
  | .or _ rs1 rs2 => .compute (s.readReg rs1 ||| s.readReg rs2)
  | .ori _ rs1 imm => .compute (s.readReg rs1 ||| imm12 imm)
  | .and _ rs1 rs2 => .compute (s.readReg rs1 &&& s.readReg rs2)
  | .andi _ rs1 imm => .compute (s.readReg rs1 &&& imm12 imm)
  | .sll _ rs1 rs2 => .compute (shiftLeft (s.readReg rs1) (regShamt (s.readReg rs2)))
  | .slli _ rs1 shamt => .compute (shiftLeft (s.readReg rs1) (immShamt shamt))
  | .srl _ rs1 rs2 => .compute (shiftRightLogical (s.readReg rs1) (regShamt (s.readReg rs2)))
  | .srli _ rs1 shamt => .compute (shiftRightLogical (s.readReg rs1) (immShamt shamt))
  | .sra _ rs1 rs2 => .compute (shiftRightArithmetic (s.readReg rs1) (regShamt (s.readReg rs2)))
  | .srai _ rs1 shamt => .compute (shiftRightArithmetic (s.readReg rs1) (immShamt shamt))
  | .slt _ rs1 rs2 => .compute (flagWord (lessSigned (s.readReg rs1) (s.readReg rs2)))
  | .slti _ rs1 imm => .compute (flagWord (lessSigned (s.readReg rs1) (imm12 imm)))
  | .sltiu _ rs1 imm => .compute (flagWord (lessUnsigned (s.readReg rs1) (imm12 imm)))
  | .sltu _ rs1 rs2 => .compute (flagWord (lessUnsigned (s.readReg rs1) (s.readReg rs2)))
  | .jal _ offset => .jump (jalTarget s offset)
  | .jalr _ rs1 offset => .jump (jalrTarget s rs1 offset)
  | .beq rs1 rs2 offset => .branch (s.readReg rs1 == s.readReg rs2) (branchTarget s offset)
  | .bne rs1 rs2 offset => .branch (s.readReg rs1 != s.readReg rs2) (branchTarget s offset)
  | .blt rs1 rs2 offset => .branch (lessSigned (s.readReg rs1) (s.readReg rs2)) (branchTarget s offset)
  | .bge rs1 rs2 offset => .branch (!lessSigned (s.readReg rs1) (s.readReg rs2)) (branchTarget s offset)
  | .bltu rs1 rs2 offset => .branch (lessUnsigned (s.readReg rs1) (s.readReg rs2)) (branchTarget s offset)
  | .bgeu rs1 rs2 offset => .branch (!lessUnsigned (s.readReg rs1) (s.readReg rs2)) (branchTarget s offset)
  | .lb _ rs1 offset => .load (effectiveAddress s rs1 offset) 1 fun v => v.signExtend 32
  | .lh _ rs1 offset => .load (effectiveAddress s rs1 offset) 2 fun v => v.signExtend 32
  | .lbu _ rs1 offset => .load (effectiveAddress s rs1 offset) 1 fun v => v.zeroExtend 32
  | .lhu _ rs1 offset => .load (effectiveAddress s rs1 offset) 2 fun v => v.zeroExtend 32
  | .lw _ rs1 offset => .load (effectiveAddress s rs1 offset) 4 fun v => v
  | .sb rs2 rs1 offset => .store (effectiveAddress s rs1 offset) 1 ((s.readReg rs2).extractLsb' 0 8)
  | .sh rs2 rs1 offset => .store (effectiveAddress s rs1 offset) 2 ((s.readReg rs2).extractLsb' 0 16)
  | .sw rs2 rs1 offset => .store (effectiveAddress s rs1 offset) 4 (s.readReg rs2)

/-- What a shape does with `rd` as destination. -/
def Shape.run (rd : Reg) (s : State) : Shape → Result
  | .compute v => .next (s.retire rd v)
  | .load addr n extend => s.load rd addr n extend
  | .store addr n v => s.store addr n v
  | .jump target => s.jump rd target
  | .branch taken target => s.branch taken target

/-- The meaning of an instruction is its shape, run with its destination, or with x0, which discards what is written to it,
where it has none. -/
theorem exec_eq_run (i : Instr) (s : State) : exec i s = (shapeOf s i).run (i.dest.getD 0#5) s := by
  cases i <;> rfl

/-! ## What a shape says of its instruction -/

/-- The shape has a result for the destination. -/
def Shape.hasResult : Shape → Bool
  | .compute _ => true
  | .load _ _ _ => true
  | .store _ _ _ => false
  | .jump _ => true
  | .branch _ _ => false

/-- The addresses that the shape stores to. -/
def Shape.stored : Shape → List Nat
  | .store addr n _ => accessAddresses addr n
  | _ => []

/-- Where the shape transfers control, if it does. -/
def Shape.target : Shape → Option Word
  | .jump target => some target
  | .branch _ target => some target
  | _ => none

/-- The condition of a branch holds; none is asked of another shape. -/
def Shape.taken : Shape → Bool
  | .branch taken _ => taken
  | _ => true

theorem shapeOf_hasResult (s : State) (i : Instr) : (shapeOf s i).hasResult = i.dest.isSome := by
  cases i <;> rfl

theorem shapeOf_stored (s : State) (i : Instr) : (shapeOf s i).stored = storedAddresses s i := by
  cases i <;> rfl

theorem shapeOf_target (s : State) (i : Instr) : (shapeOf s i).target = transferTarget s i := by
  cases i <;> rfl

theorem shapeOf_taken (s : State) (i : Instr) : (shapeOf s i).taken = true ↔ branchHolds s i := by
  cases i with
  | beq | bne => simp [shapeOf, Shape.taken, branchHolds]
  | blt | bge => simp [shapeOf, Shape.taken, branchHolds, lessSigned, BitVec.slt]
  | bltu | bgeu => simp [shapeOf, Shape.taken, branchHolds, lessUnsigned, BitVec.ult]
  | _ => exact iff_of_true rfl trivial

/-! ## States that differ in their registers alone -/

/-- The state with another register file. -/
def State.withRegs (s : State) (x : Vector Word 32) : State := { s with x := x }

@[simp] theorem State.withRegs_pc (s : State) (x : Vector Word 32) : (s.withRegs x).pc = s.pc := rfl
@[simp] theorem State.withRegs_mem (s : State) (x : Vector Word 32) : (s.withRegs x).mem = s.mem := rfl
@[simp] theorem State.withRegs_outcome (s : State) (x : Vector Word 32) : (s.withRegs x).outcome = s.outcome := rfl
@[simp] theorem State.withRegs_env (s : State) (x : Vector Word 32) : (s.withRegs x).env = s.env := rfl
@[simp] theorem State.withRegs_self (s : State) : s.withRegs s.x = s := rfl

theorem State.eq_withRegs {s u : State} (hpc : u.pc = s.pc) (hmem : u.mem = s.mem) (hout : u.outcome = s.outcome)
    (henv : u.env = s.env) : u = s.withRegs u.x := by
  cases u; cases hpc; cases hmem; cases hout; cases henv; rfl

/-- `MemRead` does not look at the registers. -/
theorem State.memRead_withRegs (s : State) (x : Vector Word 32) (addr : Word) (n : Nat) :
    (s.withRegs x).memRead addr n = (s.memRead addr n).mapError (·.withRegs x) := by
  simp only [State.memRead, apply_ite (Except.mapError _)]
  rfl

/-- `MemWrite` does not look at the registers. -/
theorem State.memWrite_withRegs (s : State) (x : Vector Word 32) (addr : Word) (n : Nat) (v : BitVec (8 * n)) :
    (s.withRegs x).memWrite addr n v =
      ((s.memWrite addr n v).map (·.withRegs x)).mapError (·.withRegs x) := by
  simp only [State.memWrite, apply_ite (Except.map _), apply_ite (Except.mapError _)]
  rfl

/-- An instruction has the same shape in two states that agree on its sources (R9). -/
theorem shapeOf_withRegs {s : State} {i : Instr} {x : Vector Word 32}
    (h : ∀ r ∈ i.sources, (s.withRegs x).readReg r = s.readReg r) : shapeOf (s.withRegs x) i = shapeOf s i := by
  cases i <;>
    simp_all [Instr.sources, shapeOf, State.division, effectiveAddress, jalTarget, jalrTarget, branchTarget]

/-! ## What a shape can do -/

/-- The outcome is that of an exception or of a refusal by the instruction at the pc (60_exceptions.md R108). -/
def StopsAt (s : State) (o : RunOutcome) : Prop :=
  (∃ cause info, o = .faulted cause info s.pc) ∨ o = .refused .storeToCode s.pc

/-- The shape, where it completes, leaves the pc at `pc`: its target, a multiple of 4, where it transfers control, else the
instruction that follows (10_state.md R11). -/
def Shape.LeadsTo (shape : Shape) (s : State) (pc : Word) : Prop :=
  (shape.target = some pc ∧ shape.taken = true ∧ pc.toNat % 4 = 0) ∨
    ((shape.target = none ∨ shape.taken = false) ∧ pc = s.pc + 4#32)

/-- The shape, which has no result, leaves memory as `mem`: a store completes inside `MEM` and outside `CODE`, and nothing
else changes memory (20_memory.md R23). -/
def Shape.LeavesMem (shape : Shape) (s : State) (mem : Memory) : Prop :=
  mem = s.mem ∨ ∃ addr n v, shape = .store addr n v ∧ (∀ a ∈ accessAddresses addr n, s.env.inMem a = true) ∧
    (∀ a ∈ accessAddresses addr n, s.env.inCode a = false) ∧ mem = (s.poke addr n v).mem

/-- What a shape can do, the same with any registers in the state and for any destination: stop with everything else as it
was; write its result to the destination and go on; or, with no result, change memory and go on. -/
theorem Shape.run_cases (shape : Shape) (s : State) :
    (∃ o, StopsAt s o ∧ ∀ rd x, shape.run rd (s.withRegs x) = .next { s.withRegs x with outcome := o }) ∨
    (∃ v pc, shape.hasResult = true ∧ shape.LeadsTo s pc ∧
      ∀ rd x, shape.run rd (s.withRegs x) = .next (((s.withRegs x).writeReg rd v).setPc pc)) ∨
    (∃ mem pc, shape.hasResult = false ∧ shape.LeadsTo s pc ∧ shape.LeavesMem s mem ∧
      ∀ rd x, shape.run rd (s.withRegs x) = .next { s.withRegs x with mem := mem, pc := pc }) := by
  cases shape with
  | compute v =>
    exact .inr (.inl ⟨v, s.pc + 4#32, rfl, .inr ⟨.inl rfl, rfl⟩, fun rd x => by simp [run, State.retire, State.advance]⟩)
  | load addr n extend =>
    rcases s.memRead_cases addr n with ⟨-, e⟩ | ⟨-, -, e⟩ | ⟨-, -, e⟩
    · exact .inl ⟨_, .inl ⟨_, _, rfl⟩, fun rd x => by rw [run, State.load, State.memRead_withRegs, e]; rfl⟩
    · exact .inl ⟨_, .inl ⟨_, _, rfl⟩, fun rd x => by rw [run, State.load, State.memRead_withRegs, e]; rfl⟩
    · refine .inr (.inl ⟨extend (s.peek addr n), s.pc + 4#32, rfl, .inr ⟨.inl rfl, rfl⟩, fun rd x => ?_⟩)
      rw [run, State.load, State.memRead_withRegs, e]
      simp [Except.mapError, State.retire, State.advance]
  | store addr n v =>
    rcases s.memWrite_cases addr n v with ⟨-, e⟩ | ⟨-, -, e⟩ | ⟨-, -, -, e⟩ | ⟨-, hmem, hcode, e⟩
    · exact .inl ⟨_, .inl ⟨_, _, rfl⟩, fun rd x => by rw [run, State.store, State.memWrite_withRegs, e]; rfl⟩
    · exact .inl ⟨_, .inl ⟨_, _, rfl⟩, fun rd x => by rw [run, State.store, State.memWrite_withRegs, e]; rfl⟩
    · exact .inl ⟨_, .inr rfl, fun rd x => by rw [run, State.store, State.memWrite_withRegs, e]; rfl⟩
    · exact .inr (.inr ⟨_, s.pc + 4#32, rfl, .inr ⟨.inl rfl, rfl⟩, .inr ⟨addr, n, v, rfl, hmem, hcode, rfl⟩,
        fun rd x => by rw [run, State.store, State.memWrite_withRegs, e]; rfl⟩)
  | jump target =>
    by_cases h : target.toNat % 4 = 0
    · refine .inr (.inl ⟨s.pc + 4#32, target, rfl, .inl ⟨rfl, rfl, h⟩, fun rd x => ?_⟩)
      simp [run, State.jump, (misaligned_eq_false target 4).2 h]
    · refine .inl ⟨_, .inl ⟨.instructionAddressMisaligned, target, rfl⟩, fun rd x => ?_⟩
      simp [run, State.jump, (misaligned_iff target 4).2 h, State.raise]
  | branch taken target =>
    rcases s.branch_cases taken target with ⟨rfl, -⟩ | ⟨rfl, h, -⟩ | ⟨rfl, h, -⟩
    · exact .inr (.inr ⟨s.mem, s.pc + 4#32, rfl, .inr ⟨.inr rfl, rfl⟩, .inl rfl, fun rd x => rfl⟩)
    · refine .inl ⟨_, .inl ⟨.instructionAddressMisaligned, target, rfl⟩, fun rd x => ?_⟩
      simp [run, State.branch, (misaligned_iff target 4).2 h, State.raise]
    · refine .inr (.inr ⟨s.mem, target, rfl, .inl ⟨rfl, rfl, h⟩, .inl rfl, fun rd x => ?_⟩)
      simp [run, State.branch, (misaligned_eq_false target 4).2 h]
      rfl

/-- A shape that leaves memory in some way leaves every byte that it does not store to. -/
theorem Shape.LeavesMem.read_eq {shape : Shape} {s : State} {mem : Memory} (h : shape.LeavesMem s mem) {a : Nat}
    (ha : a ∉ shape.stored) : mem.read a = s.mem.read a := by
  rcases h with rfl | ⟨addr, n, v, rfl, -, -, rfl⟩
  · rfl
  · exact s.read_poke_of_notMem addr n v a ha

/-- A shape leads to a multiple of 4 from a multiple of 4 (10_state.md R12). -/
theorem Shape.LeadsTo.aligned {shape : Shape} {s : State} {pc : Word} (h : shape.LeadsTo s pc)
    (hs : s.pc.toNat % 4 = 0) : pc.toNat % 4 = 0 := by
  rcases h with ⟨-, -, h⟩ | ⟨-, rfl⟩
  · exact h
  · rw [BitVec.toNat_add]
    simp only [BitVec.toNat_ofNat]
    omega

/-- A shape that takes a transfer to its target raises where the target is no multiple of 4 (R12). -/
theorem Shape.run_of_misaligned {shape : Shape} {s : State} {target : Word} (htarget : shape.target = some target)
    (htaken : shape.taken = true) (h : target.toNat % 4 ≠ 0) (rd : Reg) :
    shape.run rd s = .next (s.raise .instructionAddressMisaligned target) := by
  have hm := (misaligned_iff target 4).2 h
  cases shape with
  | jump _ => cases htarget; simp [run, State.jump, hm]
  | branch _ _ => cases htarget; cases htaken; simp [run, State.branch, hm]
  | compute _ | load _ _ _ | store _ _ _ => cases htarget

/-! ## What an instruction can do -/

/-- What an instruction can do, in a state and in every state that differs from it in registers that are not sources: stop
with everything else as it was, the same in each; write the same result to its destination and go on; or, without a
destination, change memory and go on (R9, R11). -/
theorem exec_cases_withRegs (i : Instr) (s : State) :
    (∃ o, StopsAt s o ∧ ∀ x, (∀ r ∈ i.sources, (s.withRegs x).readReg r = s.readReg r) →
      exec i (s.withRegs x) = .next { s.withRegs x with outcome := o }) ∨
    (∃ rd v pc, i.dest = some rd ∧ (shapeOf s i).LeadsTo s pc ∧
      ∀ x, (∀ r ∈ i.sources, (s.withRegs x).readReg r = s.readReg r) →
        exec i (s.withRegs x) = .next (((s.withRegs x).writeReg rd v).setPc pc)) ∨
    (∃ mem pc, i.dest = none ∧ (shapeOf s i).LeadsTo s pc ∧ (shapeOf s i).LeavesMem s mem ∧
      ∀ x, (∀ r ∈ i.sources, (s.withRegs x).readReg r = s.readReg r) →
        exec i (s.withRegs x) = .next { s.withRegs x with mem := mem, pc := pc }) := by
  have hexec : ∀ x, (∀ r ∈ i.sources, (s.withRegs x).readReg r = s.readReg r) →
      exec i (s.withRegs x) = (shapeOf s i).run (i.dest.getD 0#5) (s.withRegs x) :=
    fun x h => by rw [exec_eq_run, shapeOf_withRegs h]
  rcases (shapeOf s i).run_cases s with ⟨o, ho, e⟩ | ⟨v, pc, hres, hpc, e⟩ | ⟨mem, pc, hres, hpc, hmem, e⟩
  · exact .inl ⟨o, ho, fun x h => (hexec x h).trans (e _ x)⟩
  · obtain ⟨rd, hrd⟩ := Option.isSome_iff_exists.1 ((shapeOf_hasResult s i).symm.trans hres)
    rw [hrd] at hexec
    exact .inr (.inl ⟨rd, v, pc, hrd, hpc, fun x h => (hexec x h).trans (e rd x)⟩)
  · have hdest : i.dest = none := by simpa [hres] using (shapeOf_hasResult s i).symm
    exact .inr (.inr ⟨mem, pc, hdest, hpc, hmem, fun x h => (hexec x h).trans (e _ x)⟩)

/-- What an instruction can do: stop with everything else as it was, write a result to its destination and go on, or, without
a destination, change memory and go on. -/
theorem exec_cases (i : Instr) (s : State) :
    (∃ o, StopsAt s o ∧ exec i s = .next { s with outcome := o }) ∨
    (∃ rd v pc, i.dest = some rd ∧ (shapeOf s i).LeadsTo s pc ∧ exec i s = .next ((s.writeReg rd v).setPc pc)) ∨
    (∃ mem pc, i.dest = none ∧ (shapeOf s i).LeadsTo s pc ∧ (shapeOf s i).LeavesMem s mem ∧
      exec i s = .next { s with mem := mem, pc := pc }) := by
  rcases exec_cases_withRegs i s with ⟨o, ho, e⟩ | ⟨rd, v, pc, hrd, hpc, e⟩ | ⟨mem, pc, hrd, hpc, hmem, e⟩
  · exact .inl ⟨o, ho, e s.x fun _ _ => rfl⟩
  · exact .inr (.inl ⟨rd, v, pc, hrd, hpc, e s.x fun _ _ => rfl⟩)
  · exact .inr (.inr ⟨mem, pc, hrd, hpc, hmem, e s.x fun _ _ => rfl⟩)

/-- A register that is not the destination keeps its value when the destination is written. -/
theorem State.readReg_writeReg_of_ne (s : State) {rd r : Reg} (v : Word) (h : r ≠ rd) :
    (s.writeReg rd v).readReg r = s.readReg r := by
  rw [s.readReg_writeReg, if_neg fun hr => h hr.1]

/-! ## The frame of an instruction -/

/-- Settles O42, over the three things that an instruction can do. -/
theorem frameOfEveryInstruction : Obligations.FrameOfEveryInstruction := by
  intro i s t h
  rcases exec_cases i s with ⟨o, ho, e⟩ | ⟨rd, v, pc, hrd, -, e⟩ | ⟨mem, pc, -, -, hmem, e⟩ <;> cases e.symm.trans h
  · refine ⟨fun _ _ => rfl, fun _ _ => rfl, rfl, .inr ?_⟩
    rcases ho with ⟨cause, info, rfl⟩ | rfl
    · exact .inl ⟨cause, info, rfl⟩
    · exact .inr rfl
  · refine ⟨fun r hr => ?_, fun _ _ => by simp, by simp, .inl (by simp)⟩
    have hne : r ≠ rd := fun h => hr (h ▸ hrd)
    rw [State.readReg_setPc, s.readReg_writeReg_of_ne v hne]
  · exact ⟨fun _ _ => rfl, fun a ha => hmem.read_eq (shapeOf_stored s i ▸ ha), rfl, .inl rfl⟩

/-! ## The sources of an instruction -/

theorem StopsAt.ne_running {s : State} {o : RunOutcome} (h : StopsAt s o) : o ≠ .running := by
  rcases h with ⟨cause, info, rfl⟩ | rfl <;> exact fun h => nomatch h

/-- A written register reads the same in any two states after the write. -/
theorem State.readReg_writeReg_self (s u : State) (rd : Reg) (v : Word) :
    (u.writeReg rd v).readReg rd = (s.writeReg rd v).readReg rd := by
  by_cases h : rd = 0#5
  · subst h; simp
  · simp [State.readReg_writeReg, h]

/-- Settles O44: the two states differ in their registers alone, and each of the three things that the instruction can do in
the one is what it does in the other. -/
theorem onlyTheSourcesMatter : Obligations.OnlyTheSourcesMatter := by
  intro i s u hs hu hpc hmem henv hsrc
  obtain ⟨x, rfl⟩ : ∃ x, u = s.withRegs x := ⟨u.x, State.eq_withRegs hpc hmem (hu.trans hs.symm) henv⟩
  rcases exec_cases_withRegs i s with ⟨o, ho, e⟩ | ⟨rd, v, pc, hrd, -, e⟩ | ⟨mem, pc, hrd, -, -, e⟩ <;>
    refine ⟨_, _, e s.x fun _ _ => rfl, e x hsrc, ?_⟩
  · exact ⟨rfl, rfl, rfl, fun h => absurd h ho.ne_running, fun _ _ => ⟨rfl, rfl⟩⟩
  · refine ⟨by simp, rfl, by simp, fun _ r hr => ?_, fun r hr => ?_⟩
    · cases hrd.symm.trans hr
      exact State.readReg_writeReg_self _ _ rd v
    · have hne : r ≠ rd := fun h => hr (h ▸ hrd)
      exact ⟨State.readReg_writeReg_of_ne _ v hne, State.readReg_writeReg_of_ne _ v hne⟩
  · exact ⟨rfl, rfl, rfl, fun _ r hr => (Option.some_ne_none r (hr.symm.trans hrd)).elim, fun _ _ => ⟨rfl, rfl⟩⟩

/-! ## The pc after an instruction -/

theorem transferTarget_isSome (s : State) (i : Instr) : (transferTarget s i).isSome = i.isTransfer := by
  cases i <;> rfl

theorem shapeOf_leadsTo_iff (s : State) (i : Instr) (pc : Word) :
    (shapeOf s i).LeadsTo s pc ↔ (transferTarget s i = some pc ∧ branchHolds s i ∧ pc.toNat % 4 = 0) ∨
      ((transferTarget s i = none ∨ ¬branchHolds s i) ∧ pc = s.pc + 4#32) := by
  simp only [Shape.LeadsTo, shapeOf_target, ← Bool.not_eq_true, shapeOf_taken]

/-- An instruction that completes leads to where its shape says. -/
theorem leadsTo_of_exec {i : Instr} {s t : State} (h : exec i s = .next t) (ht : t.outcome = .running) :
    (shapeOf s i).LeadsTo s t.pc := by
  rcases exec_cases i s with ⟨o, ho, e⟩ | ⟨rd, v, pc, -, hpc, e⟩ | ⟨mem, pc, -, hpc, -, e⟩ <;> cases e.symm.trans h
  · exact absurd ht ho.ne_running
  · exact hpc
  · exact hpc

/-- Settles O43: an instruction that completes has taken its transfer, or has none to take. -/
theorem pcAdvance : Obligations.PcAdvance := by
  refine ⟨fun i s t _ h ht => ?_, fun i => ?_, by decide⟩
  · rcases (shapeOf_leadsTo_iff s i t.pc).1 (leadsTo_of_exec h ht) with ⟨htarget, hholds, -⟩ | ⟨hstay, hpc⟩
    · simp [htarget, hholds]
    · refine ⟨fun target htarget hholds => ?_, fun _ _ _ => hpc, fun _ => hpc⟩
      simp [htarget, hholds] at hstay
  · simp only [transferTarget_isSome]
    exact ⟨fun h _ => h, fun h => h State.reset⟩

/-! ## What a step and a run keep -/

/-- What every instruction keeps, and every change of the outcome alone, every step keeps. -/
theorem step_keeps {P : State → Prop} (houtcome : ∀ s o, P s → P { s with outcome := o })
    (hexec : ∀ i s t, exec i s = .next t → P s → P t) {s t : State} (h : step s = .next t) (hs : P s) : P t := by
  rcases step_cases s with ⟨-, e⟩ | ⟨-, -, e⟩ | ⟨-, -, -, e⟩ | ⟨-, -, e⟩ | ⟨-, i, -, e⟩ <;> rw [e] at h
  · exact State.eq_of_afterRun h ▸ hs
  · cases h; exact houtcome s _ hs
  · cases h; exact houtcome s _ hs
  · cases h; exact houtcome s _ hs
  · exact hexec i s t h hs

theorem exec_keeps_aligned {i : Instr} {s t : State} (h : exec i s = .next t) (hs : s.pc.toNat % 4 = 0) :
    t.pc.toNat % 4 = 0 := by
  rcases exec_cases i s with ⟨o, -, e⟩ | ⟨rd, v, pc, -, hpc, e⟩ | ⟨mem, pc, -, hpc, -, e⟩ <;> cases e.symm.trans h
  · exact hs
  · exact hpc.aligned hs
  · exact hpc.aligned hs

/-- The two low bits of a word are zero exactly when it is a multiple of 4. -/
theorem extractLsb'_two_eq_zero_iff (w : Word) : w.extractLsb' 0 2 = 0b00#2 ↔ w.toNat % 4 = 0 := by
  rw [← BitVec.toNat_inj, BitVec.extractLsb'_toNat]
  simp

/-- The memory that a shape leaves is in canonical form, and lists addresses of `MEM` alone, if the memory before was so. -/
theorem Shape.LeavesMem.wf_and_inMem {shape : Shape} {s : State} {mem : Memory} (h : shape.LeavesMem s mem)
    (hwf : s.mem.wf) (hin : ∀ c ∈ s.mem, s.env.inMem c.1 = true) : mem.wf ∧ ∀ c ∈ mem, s.env.inMem c.1 = true := by
  rcases h with rfl | ⟨addr, n, v, -, haddr, -, rfl⟩
  · exact ⟨hwf, hin⟩
  · refine ⟨s.poke_wf addr n v hwf, fun c hc => ?_⟩
    rcases s.mem_poke addr n v c hc with hc | hc
    · exact hin c hc
    · exact haddr c.1 hc

theorem exec_keeps_invariant {i : Instr} {s t : State} (h : exec i s = .next t) (hs : Invariant s) : Invariant t := by
  obtain ⟨hpc, hwf, hin, hx⟩ := hs
  refine ⟨exec_keeps_aligned h hpc, ?_⟩
  rcases exec_cases i s with ⟨o, -, e⟩ | ⟨rd, v, pc, -, -, e⟩ | ⟨mem, pc, -, -, hmem, e⟩ <;> cases e.symm.trans h
  · exact ⟨hwf, hin, hx⟩
  · simp only [State.setPc_mem, State.writeReg_mem, State.setPc_env, State.writeReg_env]
    exact ⟨hwf, hin, (s.writeReg_x_zero rd v).trans hx⟩
  · obtain ⟨hwf', hin'⟩ := hmem.wf_and_inMem hwf hin
    exact ⟨hwf', hin', hx⟩

/-- Settles O21: every instruction keeps the invariant, and it does not speak of the outcome. -/
theorem stepKeepsInv : Obligations.StepKeepsInv := fun _ _ hs h =>
  step_keeps (fun _ _ hs => hs) (fun _ _ _ => exec_keeps_invariant) h hs

/-- The launch conditions of 70_reset_and_hazards.md R129. -/
theorem Launch.ok_iff (l : Launch) :
    l.ok = true ↔ l.resetPc.toNat % 4 = 0 ∧ l.endPc.toNat % 4 = 0 ∧
      (∀ a ∈ accessAddresses l.resetPc 4, l.env.inCode a = true) ∧ l.initMem.wf ∧
      ∀ c ∈ l.initMem, l.env.inMem c.1 = true := by
  simp only [Launch.ok, config_ialignBytes, Bool.and_eq_true, Bool.not_eq_true', misaligned_eq_false, List.all_eq_true,
    decide_eq_true_eq, and_assoc]

/-- Settles O22: aligned at a launch that meets the conditions, kept by every step, and a misaligned target raised. -/
theorem pcStaysAligned : Obligations.PcStaysAligned := by
  simp only [Obligations.PcStaysAligned, extractLsb'_two_eq_zero_iff, ne_eq]
  refine ⟨fun l hl => ?_, fun k s t hs hrun => ?_, fun s i target htarget hholds h => ?_⟩
  · obtain ⟨hpc, -⟩ := l.ok_iff.1 hl
    exact hpc
  · exact run_keeps (M := Sys2Proof.core) (P := fun s : State => s.pc.toNat % 4 = 0)
      (fun _ _ => step_keeps (fun _ _ hs => hs) fun _ _ _ => exec_keeps_aligned) k hrun hs
  · rw [exec_eq_run]
    exact Shape.run_of_misaligned ((shapeOf_target s i).trans htarget) ((shapeOf_taken s i).2 hholds) h _

end Sys2Proof.Machine

namespace Sys2Proof.Machine

/-! # Words that differ in their destination alone (10_state.md R7; 30_encoding.md R49) -/

/-- Two words have the same opcode and the same bits 31:12, so that only the bits of the destination may differ. -/
def SameButRd (w w' : Word) : Prop := opcodeOf w' = opcodeOf w ∧ immUOf w' = immUOf w

section Fields

variable {w w' : Word} (h : SameButRd w w')
include h

/-- A field inside bits 31:12 is the same in both words. -/
theorem SameButRd.field_eq (first width : Nat) (hle : first + width ≤ 20) :
    w'.extractLsb' (12 + first) width = w.extractLsb' (12 + first) width := by
  ext k hk
  have hbit : (immUOf w').getLsbD (first + k) = (immUOf w).getLsbD (first + k) := by rw [h.2]
  simpa [immUOf, BitVec.getElem_extractLsb', Nat.add_assoc, show first + k < 20 by omega] using hbit

theorem SameButRd.opcodeOf_eq : opcodeOf w' = opcodeOf w := h.1
theorem SameButRd.immUOf_eq : immUOf w' = immUOf w := h.2
theorem SameButRd.funct3Of_eq : funct3Of w' = funct3Of w := h.field_eq 0 3 (by decide)
theorem SameButRd.rs1Of_eq : rs1Of w' = rs1Of w := h.field_eq 3 5 (by decide)
theorem SameButRd.rs2Of_eq : rs2Of w' = rs2Of w := h.field_eq 8 5 (by decide)
theorem SameButRd.shamtOf_eq : shamtOf w' = shamtOf w := h.field_eq 8 5 (by decide)
theorem SameButRd.funct7Of_eq : funct7Of w' = funct7Of w := h.field_eq 13 7 (by decide)
theorem SameButRd.immIOf_eq : immIOf w' = immIOf w := h.field_eq 8 12 (by decide)

theorem SameButRd.immJOf_eq : immJOf w' = immJOf w := by
  simp only [immJOf, h.field_eq 19 1 (by decide), h.field_eq 0 8 (by decide), h.field_eq 8 1 (by decide),
    h.field_eq 9 10 (by decide)]

end Fields

/-- The second instruction has the destination `rd` and otherwise does what the first does. -/
def SameButDest (rd : Reg) (i j : Instr) : Prop := j.dest = some rd ∧ ∀ s, shapeOf s j = shapeOf s i

/-- Where the first decoding is an instruction with a destination, the second is that instruction with the destination `rd`. -/
def DecodesButRd (decoded decoded' : Except IllegalClass Instr) (rd : Reg) : Prop :=
  ∀ i, decoded = .ok i → i.dest ≠ none → ∃ j, decoded' = .ok j ∧ SameButDest rd i j

section Decoders

theorem DecodesButRd.ok {rd : Reg} {i j : Instr} (h : SameButDest rd i j) : DecodesButRd (.ok i) (.ok j) rd :=
  fun _ hi _ => ⟨j, rfl, Except.ok.inj hi ▸ h⟩

theorem DecodesButRd.error {rd : Reg} {c : IllegalClass} {decoded' : Except IllegalClass Instr} :
    DecodesButRd (.error c) decoded' rd := fun _ hi _ => nomatch hi

theorem decodeOpBase_butRd (rd rd' rs1 rs2 : Reg) (f3 : BitVec 3) :
    DecodesButRd (decodeOpBase rd rs1 rs2 f3) (decodeOpBase rd' rs1 rs2 f3) rd' := by
  unfold decodeOpBase
  split <;> exact .ok ⟨rfl, fun _ => rfl⟩

theorem decodeOpAlternate_butRd (rd rd' rs1 rs2 : Reg) (f3 : BitVec 3) :
    DecodesButRd (decodeOpAlternate rd rs1 rs2 f3) (decodeOpAlternate rd' rs1 rs2 f3) rd' := by
  unfold decodeOpAlternate
  split
  · exact .ok ⟨rfl, fun _ => rfl⟩
  · exact .ok ⟨rfl, fun _ => rfl⟩
  · exact .error

theorem decodeOpMulDiv_butRd (rd rd' rs1 rs2 : Reg) (f3 : BitVec 3) :
    DecodesButRd (decodeOpMulDiv rd rs1 rs2 f3) (decodeOpMulDiv rd' rs1 rs2 f3) rd' := by
  unfold decodeOpMulDiv
  split <;> exact .ok ⟨rfl, fun _ => rfl⟩

/-- A branch has no destination. -/
theorem dest_of_decodeBranch {w : Word} {i : Instr} (h : decodeBranch w = .ok i) : i.dest = none := by
  unfold decodeBranch at h
  split at h <;> cases h <;> rfl

/-- A store has no destination. -/
theorem dest_of_decodeStore {w : Word} {i : Instr} (h : decodeStore w = .ok i) : i.dest = none := by
  unfold decodeStore at h
  split at h <;> cases h <;> rfl

variable {w w' : Word} (h : SameButRd w w')
include h

theorem decodeOp_butRd : DecodesButRd (decodeOp w) (decodeOp w') (rdOf w') := by
  unfold decodeOp
  rw [h.funct7Of_eq, h.rs1Of_eq, h.rs2Of_eq, h.funct3Of_eq]
  split_ifs
  · exact decodeOpBase_butRd _ _ _ _ _
  · exact decodeOpAlternate_butRd _ _ _ _ _
  · exact decodeOpMulDiv_butRd _ _ _ _ _
  · exact .error

theorem decodeOpImm_butRd : DecodesButRd (decodeOpImm w) (decodeOpImm w') (rdOf w') := by
  unfold decodeOpImm
  rw [h.funct7Of_eq, h.rs1Of_eq, h.immIOf_eq, h.shamtOf_eq, h.funct3Of_eq]
  split
  case h_7 =>
    split_ifs
    · exact .ok ⟨rfl, fun _ => rfl⟩
    · exact .error
  case h_8 =>
    split_ifs
    · exact .ok ⟨rfl, fun _ => rfl⟩
    · exact .ok ⟨rfl, fun _ => rfl⟩
    · exact .error
  all_goals exact .ok ⟨rfl, fun _ => rfl⟩

theorem decodeJalr_butRd : DecodesButRd (decodeJalr w) (decodeJalr w') (rdOf w') := by
  unfold decodeJalr
  rw [h.rs1Of_eq, h.immIOf_eq, h.funct3Of_eq]
  split
  · exact .ok ⟨rfl, fun _ => rfl⟩
  · exact .error

theorem decodeLoad_butRd : DecodesButRd (decodeLoad w) (decodeLoad w') (rdOf w') := by
  unfold decodeLoad
  rw [h.rs1Of_eq, h.immIOf_eq, h.funct3Of_eq]
  split
  case h_6 => exact .error
  all_goals exact .ok ⟨rfl, fun _ => rfl⟩

/-- Two words that differ in their destination alone decode to instructions that do, if the first is one that has a
destination. -/
theorem decodeWord_butRd : DecodesButRd (decodeWord w) (decodeWord w') (rdOf w') := by
  unfold decodeWord
  rw [h.opcodeOf_eq, h.immUOf_eq, h.immJOf_eq]
  split_ifs
  · exact .ok ⟨rfl, fun _ => rfl⟩
  · exact .ok ⟨rfl, fun _ => rfl⟩
  · exact .ok ⟨rfl, fun _ => rfl⟩
  · exact decodeJalr_butRd h
  · exact decodeOp_butRd h
  · exact decodeOpImm_butRd h
  · exact fun i hi hd => absurd (dest_of_decodeBranch hi) hd
  · exact decodeLoad_butRd h
  · exact fun i hi hd => absurd (dest_of_decodeStore hi) hd
  · exact .error

end Decoders

/-- Two instructions that differ in their destination alone, the second's x0, in the same state: the second stops the run
alike, or leaves the same pc and memory and no register changed (10_state.md R7). -/
theorem exec_x0_of_sameButDest {i j : Instr} (h : SameButDest 0#5 i j) (s : State) :
    ∃ t u, exec j s = .next t ∧ exec i s = .next u ∧
      (∀ r, t.readReg r = s.readReg r) ∧ t.pc = u.pc ∧ t.mem = u.mem ∧ t.outcome = u.outcome ∧ t.env = u.env := by
  obtain ⟨hdest, hshape⟩ := h
  rw [exec_eq_run, exec_eq_run, hshape, hdest]
  rcases (shapeOf s i).run_cases s with ⟨o, -, e⟩ | ⟨v, pc, -, -, e⟩ | ⟨mem, pc, -, -, -, e⟩ <;>
    refine ⟨_, _, e _ s.x, e _ s.x, ?_⟩
  · exact ⟨fun _ => rfl, rfl, rfl, rfl, rfl⟩
  · simp
  · exact ⟨fun _ => rfl, rfl, rfl, rfl, rfl⟩

/-- Settles O16: the rules of x0, and an instruction with x0 in place of its destination. -/
theorem registerZero : Obligations.RegisterZero := by
  refine ⟨rfl, State.readReg_zero, State.writeReg_zero, fun s r q v hr => ?_, fun upper op rd i s hd hi => ?_, rfl,
    fun s => by simp [exec, execAddi, State.retire, State.advance, State.setPc]⟩
  · simp [s.readReg_writeReg, hr]
  · have hw : SameButRd (encodeU upper rd op) (encodeU upper 0#5 op) := by simp [SameButRd]
    obtain ⟨j, hj, hij⟩ := decodeWord_butRd hw i hi (by simp [hd])
    rw [rdOf_encodeU] at hij
    obtain ⟨t, u, ht, hu, hrest⟩ := exec_x0_of_sameButDest hij s
    exact ⟨j, t, u, hj, ht, hu, hrest⟩

/-! # The step, and the state at reset -/

/-- The offset of a B-format word is even (30_encoding.md R42). -/
theorem branchOffsetOk_immBOf (w : Word) : branchOffsetOk (immBOf w) = true := by
  rw [branchOffsetOk, immBOf, BitVec.getLsbD_append]
  rfl

/-- The offset of a J-format word is even (R44). -/
theorem jumpOffsetOk_immJOf (w : Word) : jumpOffsetOk (immJOf w) = true := by
  rw [jumpOffsetOk, immJOf, BitVec.getLsbD_append]
  rfl

theorem wellFormed_of_decodeBranch {w : Word} {i : Instr} (h : decodeBranch w = .ok i) : i.wellFormed = true := by
  unfold decodeBranch at h
  split at h <;> cases h <;> exact branchOffsetOk_immBOf w

theorem wellFormed_of_decodeOp {w : Word} {i : Instr} (h : decodeOp w = .ok i) : i.wellFormed = true := by
  unfold decodeOp at h
  split_ifs at h
  · unfold decodeOpBase at h
    split at h <;> cases h <;> rfl
  · unfold decodeOpAlternate at h
    split at h <;> cases h <;> rfl
  · unfold decodeOpMulDiv at h
    split at h <;> cases h <;> rfl

theorem wellFormed_of_decodeOpImm {w : Word} {i : Instr} (h : decodeOpImm w = .ok i) : i.wellFormed = true := by
  unfold decodeOpImm at h
  split at h
  case h_7 | h_8 => split_ifs at h <;> cases h <;> rfl
  all_goals cases h; rfl

theorem wellFormed_of_decodeJalr {w : Word} {i : Instr} (h : decodeJalr w = .ok i) : i.wellFormed = true := by
  unfold decodeJalr at h
  split at h <;> cases h; rfl

theorem wellFormed_of_decodeLoad {w : Word} {i : Instr} (h : decodeLoad w = .ok i) : i.wellFormed = true := by
  unfold decodeLoad at h
  split at h <;> cases h <;> rfl

theorem wellFormed_of_decodeStore {w : Word} {i : Instr} (h : decodeStore w = .ok i) : i.wellFormed = true := by
  unfold decodeStore at h
  split at h <;> cases h <;> rfl

/-- A word decodes to a well-formed instruction only (30_encoding.md R42, R44, R46). -/
theorem wellFormed_of_decodeWord {w : Word} {i : Instr} (h : decodeWord w = .ok i) : i.wellFormed = true := by
  unfold decodeWord at h
  split_ifs at h
  · cases h; rfl
  · cases h; rfl
  · cases h; exact jumpOffsetOk_immJOf w
  · exact wellFormed_of_decodeJalr h
  · exact wellFormed_of_decodeOp h
  · exact wellFormed_of_decodeOpImm h
  · exact wellFormed_of_decodeBranch h
  · exact wellFormed_of_decodeLoad h
  · exact wellFormed_of_decodeStore h

/-- The word that the fetch reads, byte by byte (20_memory.md R24). -/
theorem State.peek_pc (s : State) : s.peek s.pc 4 = wordAtPc s := by
  have haddr : accessAddresses s.pc 4 =
      [(s.pc + 0#32).toNat, (s.pc + 1#32).toNat, (s.pc + 2#32).toNat, (s.pc + 3#32).toNat] := rfl
  rw [State.peek, haddr, BitVec.add_zero]
  exact valueOfBytes_four _ _ _ _

/-- The step where the run goes on, the word is in `CODE` and it decodes. -/
theorem step_of_executes {s : State} {i : Instr} (h : Executes s i) : step s = exec i s := by
  obtain ⟨⟨hrun, hend, hcode⟩, hdecode⟩ := h
  rw [← s.peek_pc] at hdecode
  rcases s.fetch_cases with ⟨⟨a, ha, hout⟩, -⟩ | ⟨-, hfetch⟩
  · simp [hcode a ha] at hout
  · simp [step, hrun, hend, hfetch, hdecode]

/-- Settles O9: a decoded instruction is well-formed, and the step that executes it is its meaning. -/
theorem stepRunsDecodedInstruction : Obligations.StepRunsDecodedInstruction :=
  fun _ _ hfetches hdecode => ⟨wellFormed_of_decodeWord hdecode, step_of_executes ⟨hfetches, hdecode⟩⟩

/-! ## The state at reset and at launch -/

/-- Any register but x0 reads as its place in the register file (10_state.md R7). -/
theorem State.readReg_of_ne_zero (s : State) {r : Reg} (h : r ≠ 0#5) : s.readReg r = s.x[r.toNat]'r.isLt := by
  simp [State.readReg, h]

/-- Settles O17: the registers, and the launch conditions for the pc. -/
theorem resetValues : Obligations.ResetValues := by
  refine fun l => ⟨State.readReg_zero _, fun r hr => ?_, rfl, fun _ => rfl, rfl, fun hl => ?_⟩
  · have hn : 0 ≠ r.toNat := fun h => hr (BitVec.eq_of_toNat_eq h.symm)
    rw [State.readReg_of_ne_zero _ hr]
    exact Vector.getElem_set_ne (by decide) r.isLt hn
  · obtain ⟨hpc, -, hcode, -⟩ := l.ok_iff.1 hl
    exact ⟨hpc, hcode⟩

/-- Settles O18: every register by its place in the register file, every address by the one region. -/
theorem resetModelChoices : Obligations.ResetModelChoices := by
  refine ⟨fun r => ?_, rfl, rfl, fun _ => rfl, fun a ha => ⟨?_, ?_⟩, rfl⟩
  · simp [State.readReg, State.reset]
  · simpa [State.reset, Env.inMem, Region.contains] using ha
  · simp [State.reset, Env.inCode]

/-- Settles O19: reset lists no byte of memory. -/
theorem invAtReset : Obligations.InvAtReset :=
  ⟨rfl, State.reset_mem_wf, fun _ hc => absurd hc List.not_mem_nil, rfl⟩

end Sys2Proof.Machine

namespace Sys2Proof

/-! # Assembly lines (30_encoding.md R51 to R53) -/

/-! ## An operand that is accepted is written as the field's value -/

theorem toNat_of_asmReg {n : Nat} {r : Reg} (h : asmReg n = some r) : r.toNat = n := by
  unfold asmReg at h
  split_ifs at h with hn
  cases h
  exact Nat.mod_eq_of_lt hn

theorem toNat_of_asmUnsigned {w : Nat} {v : Int} {x : BitVec w} (h : asmUnsigned w v = some x) : (x.toNat : Int) = v := by
  unfold asmUnsigned at h
  split_ifs at h with hv
  obtain ⟨hlo, hhi⟩ := hv
  cases h
  rw [BitVec.toNat_ofInt, Int.toNat_of_nonneg (Int.emod_nonneg _ (by positivity))]
  exact Int.emod_eq_of_lt hlo (by exact_mod_cast hhi)

theorem toInt_of_asmSigned12 {v : Int} {x : BitVec 12} (h : asmSigned12 v = some x) : x.toInt = v := by
  unfold asmSigned12 at h
  split_ifs at h with hv
  cases h
  rw [BitVec.toInt_ofInt]
  exact Int.bmod_eq_of_le (by omega) (by omega)

/-- An even number has bit 0 zero in every field. -/
theorem getLsbD_zero_ofInt_of_even {w : Nat} {v : Int} (h : v % 2 = 0) :
    (BitVec.ofInt (w + 1) v).getLsbD 0 = false := by
  have hmod : v % (2 ^ (w + 1) : Nat) % 2 = v % 2 := Int.emod_emod_of_dvd v ⟨(2 ^ w : Nat), by push_cast; ring⟩
  rw [BitVec.getLsbD, BitVec.toNat_ofInt, Nat.testBit_zero, decide_eq_false_iff_not]
  omega

theorem of_asmBranchOffset {v : Int} {x : BitVec 13} (h : asmBranchOffset v = some x) :
    x.toInt = v ∧ branchOffsetOk x = true := by
  unfold asmBranchOffset at h
  split_ifs at h with hv
  cases h
  refine ⟨?_, ?_⟩
  · rw [BitVec.toInt_ofInt]
    exact Int.bmod_eq_of_le (by omega) (by omega)
  · rw [branchOffsetOk, getLsbD_zero_ofInt_of_even hv.1, Bool.not_false]

theorem of_asmJumpOffset {v : Int} {x : BitVec 21} (h : asmJumpOffset v = some x) :
    x.toInt = v ∧ jumpOffsetOk x = true := by
  unfold asmJumpOffset at h
  split_ifs at h with hv
  cases h
  refine ⟨?_, ?_⟩
  · rw [BitVec.toInt_ofInt]
    exact Int.bmod_eq_of_le (by omega) (by omega)
  · rw [jumpOffsetOk, getLsbD_zero_ofInt_of_even hv.1, Bool.not_false]

/-! ## The entries of each form are written with their mnemonic -/

theorem mem_of_lookup {β : Type} {l : List (String × β)} {op : String} {f : β} (h : l.lookup op = some f) : (op, f) ∈ l := by
  obtain ⟨l₁, l₂, rfl, -⟩ := List.lookup_eq_some_iff.1 h
  exact List.mem_append_right l₁ List.mem_cons_self

/-- The instruction is well-formed and this is its line. -/
def WrittenAs (line : AsmLine) (i : Instr) : Prop := i.wellFormed = true ∧ line = disassemble i

theorem writtenAs_of_mem_formU : ∀ e ∈ asmFormU, ∀ rd imm, WrittenAs ⟨e.1, [asmOfReg rd, .num imm.toNat]⟩ (e.2 rd imm) := by
  simp [asmFormU, WrittenAs, Instr.wellFormed, disassemble]

theorem writtenAs_of_mem_formR : ∀ e ∈ asmFormR, ∀ rd rs1 rs2, WrittenAs (asmLineR e.1 rd rs1 rs2) (e.2 rd rs1 rs2) := by
  simp [asmFormR, WrittenAs, Instr.wellFormed, disassemble]

theorem writtenAs_of_mem_formI : ∀ e ∈ asmFormI, ∀ rd rs1 imm,
    WrittenAs (asmLineN e.1 rd rs1 imm.toInt) (e.2 rd rs1 imm) := by
  simp [asmFormI, WrittenAs, Instr.wellFormed, disassemble]

theorem writtenAs_of_mem_formShift : ∀ e ∈ asmFormShift, ∀ rd rs1 shamt,
    WrittenAs (asmLineN e.1 rd rs1 shamt.toNat) (e.2 rd rs1 shamt) := by
  simp [asmFormShift, WrittenAs, Instr.wellFormed, disassemble]

theorem writtenAs_of_mem_formBranch : ∀ e ∈ asmFormBranch, ∀ rs1 rs2 offset, branchOffsetOk offset = true →
    WrittenAs (asmLineN e.1 rs1 rs2 offset.toInt) (e.2 rs1 rs2 offset) := by
  simp +contextual [asmFormBranch, WrittenAs, Instr.wellFormed, disassemble]

theorem writtenAs_of_mem_formMem : ∀ e ∈ asmFormMem, ∀ r rs1 offset,
    WrittenAs (asmLineM e.1 r rs1 offset) (e.2 r rs1 offset) := by
  simp [asmFormMem, WrittenAs, Instr.wellFormed, disassemble]

/-! ## The lines -/

/-- What the statement asks of a line and the instruction that it assembles to. -/
def LineOf (line : AsmLine) (i : Instr) : Prop :=
  i.wellFormed = true ∧
    (line = disassemble i ∨
      (∃ offset, line = ⟨"jal", [.num offset]⟩ ∧ disassemble i = ⟨"jal", [.reg 1, .num offset]⟩) ∨
      (∃ offset base, line = ⟨"jalr", [.mem offset base]⟩ ∧ disassemble i = ⟨"jalr", [.reg 1, .mem offset base]⟩))

theorem WrittenAs.lineOf {line : AsmLine} {i : Instr} (h : WrittenAs line i) : LineOf line i := ⟨h.1, .inl h.2⟩

/-- `jal offset`. -/
theorem lineOf_of_assemble_num {op : String} {offset : Int} {i : Instr} (h : assemble ⟨op, [.num offset]⟩ = some i) :
    LineOf ⟨op, [.num offset]⟩ i := by
  simp only [assemble] at h
  split_ifs at h with hop
  cases hop
  obtain ⟨x, hx, rfl⟩ := Option.map_eq_some_iff.1 h
  obtain ⟨rfl, hok⟩ := of_asmJumpOffset hx
  exact ⟨hok, .inr (.inl ⟨_, rfl, rfl⟩)⟩

/-- `jalr offset(rs1)`. -/
theorem lineOf_of_assemble_mem {op : String} {offset : Int} {base : Nat} {i : Instr}
    (h : assemble ⟨op, [.mem offset base]⟩ = some i) : LineOf ⟨op, [.mem offset base]⟩ i := by
  simp only [assemble] at h
  split_ifs at h with hop
  cases hop
  simp only [Option.bind_eq_some_iff, Option.map_eq_some_iff] at h
  obtain ⟨rs1, hrs1, x, hx, rfl⟩ := h
  obtain rfl := toNat_of_asmReg hrs1
  obtain rfl := toInt_of_asmSigned12 hx
  exact ⟨rfl, .inr (.inr ⟨_, _, rfl, rfl⟩)⟩

/-- `jal rd, offset`, and the form `op rd, imm`. -/
theorem lineOf_of_assemble_reg_num {op : String} {r : Nat} {v : Int} {i : Instr}
    (h : assemble ⟨op, [.reg r, .num v]⟩ = some i) : LineOf ⟨op, [.reg r, .num v]⟩ i := by
  simp only [assemble] at h
  split_ifs at h with hop
  · cases hop
    simp only [Option.bind_eq_some_iff, Option.map_eq_some_iff] at h
    obtain ⟨rd, hrd, x, hx, rfl⟩ := h
    obtain rfl := toNat_of_asmReg hrd
    obtain ⟨rfl, hok⟩ := of_asmJumpOffset hx
    exact ⟨hok, .inl rfl⟩
  · simp only [Option.bind_eq_some_iff, Option.map_eq_some_iff] at h
    obtain ⟨f, hf, rd, hrd, x, hx, rfl⟩ := h
    obtain rfl := toNat_of_asmReg hrd
    obtain rfl := toNat_of_asmUnsigned hx
    exact (writtenAs_of_mem_formU _ (mem_of_lookup hf) rd x).lineOf

/-- `op rd, rs1, rs2`. -/
theorem lineOf_of_assemble_reg_reg_reg {op : String} {r a b : Nat} {i : Instr}
    (h : assemble ⟨op, [.reg r, .reg a, .reg b]⟩ = some i) : LineOf ⟨op, [.reg r, .reg a, .reg b]⟩ i := by
  simp only [assemble, Option.bind_eq_some_iff, Option.map_eq_some_iff] at h
  obtain ⟨f, hf, rd, hrd, rs1, hrs1, rs2, hrs2, rfl⟩ := h
  obtain rfl := toNat_of_asmReg hrd
  obtain rfl := toNat_of_asmReg hrs1
  obtain rfl := toNat_of_asmReg hrs2
  exact (writtenAs_of_mem_formR _ (mem_of_lookup hf) rd rs1 rs2).lineOf

/-- Two registers and a number: an immediate, a shift amount or the offset of a branch. -/
theorem lineOf_of_assemble_reg_reg_num {op : String} {r a : Nat} {v : Int} {i : Instr}
    (h : assemble ⟨op, [.reg r, .reg a, .num v]⟩ = some i) : LineOf ⟨op, [.reg r, .reg a, .num v]⟩ i := by
  simp only [assemble] at h
  split at h
  case h_4 => cases h
  all_goals
    simp only [Option.bind_eq_some_iff, Option.map_eq_some_iff] at h
    obtain ⟨first, hfirst, second, hsecond, x, hx, rfl⟩ := h
    obtain rfl := toNat_of_asmReg hfirst
    obtain rfl := toNat_of_asmReg hsecond
  next hf =>
    obtain rfl := toInt_of_asmSigned12 hx
    exact (writtenAs_of_mem_formI _ (mem_of_lookup hf) first second x).lineOf
  next hf _ =>
    obtain rfl := toNat_of_asmUnsigned hx
    exact (writtenAs_of_mem_formShift _ (mem_of_lookup hf) first second x).lineOf
  next hf _ _ =>
    obtain ⟨rfl, hok⟩ := of_asmBranchOffset hx
    exact (writtenAs_of_mem_formBranch _ (mem_of_lookup hf) first second x hok).lineOf

/-- A register and `offset(rs1)`. -/
theorem lineOf_of_assemble_reg_mem {op : String} {r base : Nat} {offset : Int} {i : Instr}
    (h : assemble ⟨op, [.reg r, .mem offset base]⟩ = some i) : LineOf ⟨op, [.reg r, .mem offset base]⟩ i := by
  simp only [assemble, Option.bind_eq_some_iff, Option.map_eq_some_iff] at h
  obtain ⟨f, hf, first, hfirst, rs1, hrs1, x, hx, rfl⟩ := h
  obtain rfl := toNat_of_asmReg hfirst
  obtain rfl := toNat_of_asmReg hrs1
  obtain rfl := toInt_of_asmSigned12 hx
  exact (writtenAs_of_mem_formMem _ (mem_of_lookup hf) first rs1 x).lineOf

/-- Settles O8: the cases of the assembler, by the form of the operands. -/
theorem assembleThenDisassemble : Obligations.AssembleThenDisassemble := by
  rintro ⟨op, operands⟩ i h
  have hcases := h
  unfold assemble at hcases
  split at hcases
  next heq => cases heq; exact lineOf_of_assemble_num h
  next heq => cases heq; exact lineOf_of_assemble_mem h
  next heq => cases heq; exact lineOf_of_assemble_reg_num h
  next heq => cases heq; exact lineOf_of_assemble_reg_reg_reg h
  next heq => cases heq; exact lineOf_of_assemble_reg_reg_num h
  next heq => cases heq; exact lineOf_of_assemble_reg_mem h
  next => cases hcases

end Sys2Proof

namespace Sys2Proof.Machine

/-! # Data memory: the loads, the stores and what leaves it unchanged (20_memory.md) -/

/-! ## The bytes of an access -/

theorem bytesInMem_iff (s : State) (addr : Word) (n : Nat) :
    BytesInMem s addr n ↔ ∀ a ∈ accessAddresses addr n, s.env.inMem a = true := by
  simp [BytesInMem, mem_accessAddresses]

theorem bytesOutsideCode_iff (s : State) (addr : Word) (n : Nat) :
    BytesOutsideCode s addr n ↔ ∀ a ∈ accessAddresses addr n, s.env.inCode a = false := by
  simp [BytesOutsideCode, mem_accessAddresses]

theorem not_bytesInMem_iff (s : State) (addr : Word) (n : Nat) :
    ¬BytesInMem s addr n ↔ ∃ a ∈ accessAddresses addr n, s.env.inMem a = false := by
  simp [bytesInMem_iff]

theorem not_bytesOutsideCode_iff (s : State) (addr : Word) (n : Nat) :
    ¬BytesOutsideCode s addr n ↔ ∃ a ∈ accessAddresses addr n, s.env.inCode a = true := by
  simp [bytesOutsideCode_iff]

/-- `CODE` is in `MEM` (R29). -/
theorem Env.inMem_of_inCode {e : Env} {a : Nat} (h : e.inCode a = true) : e.inMem a = true := by
  obtain ⟨r, hr, hin⟩ := List.any_eq_true.1 h
  exact List.any_eq_true.2 ⟨r, hr, (Bool.and_eq_true_iff.1 hin).2⟩

/-- An address inside an access counted from its lowest one (R36). -/
theorem add_ofNat_add_ofNat (addr : Word) (k j : Nat) :
    addr + BitVec.ofNat 32 k + BitVec.ofNat 32 j = addr + BitVec.ofNat 32 (k + j) := by
  rw [BitVec.add_assoc, ← BitVec.ofNat_add]

/-- The bytes of an access are in `MEM` with those of a wider access around it. -/
theorem BytesInMem.of_within {s t : State} {addr : Word} {n k m : Nat} (h : BytesInMem s addr n) (henv : t.env = s.env)
    (hk : k + m ≤ n) : BytesInMem t (addr + BitVec.ofNat 32 k) m := by
  intro j hj
  rw [henv, add_ofNat_add_ofNat]
  exact h (k + j) (by omega)

theorem State.peek_one (s : State) (addr : Word) : s.peek addr 1 = byteAt s.mem addr := by
  have haddr : accessAddresses addr 1 = [(addr + 0#32).toNat] := rfl
  rw [State.peek, haddr, BitVec.add_zero]
  exact valueOfBytes_one _

theorem State.peek_two (s : State) (addr : Word) : s.peek addr 2 = halfAt s.mem addr := by
  have haddr : accessAddresses addr 2 = [(addr + 0#32).toNat, (addr + 1#32).toNat] := rfl
  rw [State.peek, haddr, BitVec.add_zero]
  exact valueOfBytes_two _ _

/-- The word at any address is the word that a fetch would read there (R21). -/
theorem State.peek_four (s : State) (addr : Word) : s.peek addr 4 = wordAt s.mem addr :=
  State.peek_pc { s with pc := addr }

/-! ## What a load and a store do (R22, R23) -/

section Access

variable {s t : State} {addr : Word} {n : Nat}

theorem State.load_of_misaligned {rd : Reg} {extend : BitVec (8 * n) → Word} (h : addr.toNat % n ≠ 0) :
    s.load rd addr n extend = .next (faultedAt s .loadAddressMisaligned addr) := by
  rcases s.load_cases rd addr n extend with ⟨-, e⟩ | ⟨h', -⟩ | ⟨h', -⟩
  · exact e
  · exact absurd h' h
  · exact absurd h' h

theorem State.load_of_outsideMem {rd : Reg} {extend : BitVec (8 * n) → Word} (h : addr.toNat % n = 0)
    (hmem : ¬BytesInMem s addr n) : s.load rd addr n extend = .next (faultedAt s .loadAccessFault addr) := by
  rcases s.load_cases rd addr n extend with ⟨h', -⟩ | ⟨-, -, e⟩ | ⟨-, hmem', -⟩
  · exact absurd h h'
  · exact e
  · exact absurd ((bytesInMem_iff s addr n).2 hmem') hmem

theorem State.load_of_inMem {rd : Reg} {extend : BitVec (8 * n) → Word} (h : addr.toNat % n = 0)
    (hmem : BytesInMem s addr n) : s.load rd addr n extend = .next (s.retire rd (extend (s.peek addr n))) := by
  rcases s.load_cases rd addr n extend with ⟨h', -⟩ | ⟨-, hout, -⟩ | ⟨-, -, e⟩
  · exact absurd h h'
  · exact absurd hmem ((not_bytesInMem_iff s addr n).2 hout)
  · exact e

theorem State.store_of_misaligned {v : BitVec (8 * n)} (h : addr.toNat % n ≠ 0) :
    s.store addr n v = .next (faultedAt s .storeAddressMisaligned addr) := by
  rcases s.store_cases addr n v with ⟨-, e⟩ | ⟨h', -⟩ | ⟨h', -⟩ | ⟨h', -⟩
  · exact e
  all_goals exact absurd h' h

theorem State.store_of_outsideMem {v : BitVec (8 * n)} (h : addr.toNat % n = 0) (hmem : ¬BytesInMem s addr n) :
    s.store addr n v = .next (faultedAt s .storeAccessFault addr) := by
  rcases s.store_cases addr n v with ⟨h', -⟩ | ⟨-, -, e⟩ | ⟨-, hmem', -⟩ | ⟨-, hmem', -⟩
  · exact absurd h h'
  · exact e
  all_goals exact absurd ((bytesInMem_iff s addr n).2 hmem') hmem

theorem State.store_of_inCode {v : BitVec (8 * n)} (h : addr.toNat % n = 0) (hmem : BytesInMem s addr n)
    (hcode : ¬BytesOutsideCode s addr n) : s.store addr n v = .next (refusedAt s) := by
  rcases s.store_cases addr n v with ⟨h', -⟩ | ⟨-, hout, -⟩ | ⟨-, -, -, e⟩ | ⟨-, -, hcode', -⟩
  · exact absurd h h'
  · exact absurd hmem ((not_bytesInMem_iff s addr n).2 hout)
  · exact e
  · exact absurd ((bytesOutsideCode_iff s addr n).2 hcode') hcode

theorem State.store_of_outsideCode {v : BitVec (8 * n)} (h : addr.toNat % n = 0) (hmem : BytesInMem s addr n)
    (hcode : BytesOutsideCode s addr n) : s.store addr n v = .next (s.poke addr n v).advance := by
  rcases s.store_cases addr n v with ⟨h', -⟩ | ⟨-, hout, -⟩ | ⟨-, -, hin, -⟩ | ⟨-, -, -, e⟩
  · exact absurd h h'
  · exact absurd hmem ((not_bytesInMem_iff s addr n).2 hout)
  · exact absurd hcode ((not_bytesOutsideCode_iff s addr n).2 hin)
  · exact e

/-- A store after which the run goes on has passed every check (60_exceptions.md R115). -/
theorem State.store_eq_running {v : BitVec (8 * n)} (h : s.store addr n v = .next t) (ht : t.outcome = .running) :
    addr.toNat % n = 0 ∧ BytesInMem s addr n ∧ t = (s.poke addr n v).advance := by
  rw [bytesInMem_iff]
  rcases s.store_cases addr n v with ⟨-, e⟩ | ⟨-, -, e⟩ | ⟨-, -, -, e⟩ | ⟨halign, hmem, -, e⟩ <;> cases e.symm.trans h
  · cases ht
  · cases ht
  · cases ht
  · exact ⟨halign, hmem, rfl⟩

end Access

/-- A byte of the low n bytes of a word is that byte of the word. -/
theorem extractLsb'_of_low (v : Word) {n k : Nat} (hk : k < n) :
    (v.extractLsb' 0 (8 * n)).extractLsb' (8 * k) 8 = v.extractLsb' (8 * k) 8 := by
  ext j hj
  have hin : 8 * k + j < 8 * n := by omega
  simp [hin]

/-- Putting the low n bytes of a word into memory and going on is what `Stores` describes (R23). -/
theorem stores_poke_advance (s : State) (addr : Word) {n : Nat} (hn : n ≤ 4) (v : Word) :
    Stores s (s.poke addr n (v.extractLsb' 0 (8 * n))).advance addr n v :=
  ⟨fun k hk => (s.read_poke_of_lt addr n _ k hk (by omega)).trans (extractLsb'_of_low v hk),
    s.read_poke_of_notMem addr n _, fun _ => rfl, rfl, rfl, rfl⟩

/-! ## The loads (47_loads.md) -/

/-- The instruction is the load of n bytes with the extension given. -/
def IsLoad (i : Reg → Reg → BitVec 12 → Instr) (n : Nat) (extend : BitVec (8 * n) → Word) : Prop :=
  ∀ rd rs1 offset s, exec (i rd rs1 offset) s = s.load rd (effectiveAddress s rs1 offset) n extend

theorem isLoad_lb : IsLoad .lb 1 fun v => v.signExtend 32 := fun _ _ _ _ => rfl
theorem isLoad_lh : IsLoad .lh 2 fun v => v.signExtend 32 := fun _ _ _ _ => rfl
theorem isLoad_lbu : IsLoad .lbu 1 fun v => v.zeroExtend 32 := fun _ _ _ _ => rfl
theorem isLoad_lhu : IsLoad .lhu 2 fun v => v.zeroExtend 32 := fun _ _ _ _ => rfl
theorem isLoad_lw : IsLoad .lw 4 fun v => v := fun _ _ _ _ => rfl

section Loads

variable {i : Reg → Reg → BitVec 12 → Instr} {n : Nat} {extend : BitVec (8 * n) → Word} {value : Memory → Word → Word}

theorem IsLoad.loadsAligned (h : IsLoad i n extend)
    (hvalue : ∀ (s : State) addr, extend (s.peek addr n) = value s.mem addr) : LoadsAligned i n value := by
  refine ⟨?_, ?_⟩ <;> rintro rd rs1 offset s addr rfl halign hmem
  · rw [← hvalue]
    exact ⟨_, (h ..).trans (State.load_of_inMem halign hmem), retires_retire s rd _⟩
  · exact (h ..).trans (State.load_of_outsideMem halign hmem)

theorem IsLoad.loadMisaligned (h : IsLoad i n extend) : LoadMisaligned i n := by
  rintro rd rs1 offset s addr rfl hmis
  exact (h ..).trans (State.load_of_misaligned hmis)

/-- A load reads `CODE` as any other memory (R34). -/
theorem LoadsAligned.loadsFromCode (h : LoadsAligned i n value) : LoadsFromCode i n value :=
  fun rd rs1 offset s addr haddr halign hcode =>
    h.1 rd rs1 offset s addr haddr halign fun k hk => Env.inMem_of_inCode (hcode k hk)

theorem loadsAligned_lb : LoadsAligned .lb 1 fun m addr => (byteAt m addr).signExtend 32 :=
  isLoad_lb.loadsAligned fun s addr => by rw [s.peek_one]

theorem loadsAligned_lh : LoadsAligned .lh 2 fun m addr => (halfAt m addr).signExtend 32 :=
  isLoad_lh.loadsAligned fun s addr => by rw [s.peek_two]

theorem loadsAligned_lbu : LoadsAligned .lbu 1 fun m addr => (byteAt m addr).zeroExtend 32 :=
  isLoad_lbu.loadsAligned fun s addr => by rw [s.peek_one]

theorem loadsAligned_lhu : LoadsAligned .lhu 2 fun m addr => (halfAt m addr).zeroExtend 32 :=
  isLoad_lhu.loadsAligned fun s addr => by rw [s.peek_two]

theorem loadsAligned_lw : LoadsAligned .lw 4 fun m addr => wordAt m addr :=
  isLoad_lw.loadsAligned State.peek_four

end Loads

/-! ## The stores (48_stores.md) -/

/-- The instruction is the store of the n low bytes of x[rs2]. -/
def IsStore (i : Reg → Reg → BitVec 12 → Instr) (n : Nat) : Prop :=
  ∀ rs2 rs1 offset s, exec (i rs2 rs1 offset) s =
    s.store (effectiveAddress s rs1 offset) n ((s.readReg rs2).extractLsb' 0 (8 * n))

theorem isStore_sb : IsStore .sb 1 := fun _ _ _ _ => rfl
theorem isStore_sh : IsStore .sh 2 := fun _ _ _ _ => rfl
theorem isStore_sw : IsStore .sw 4 := fun _ rs1 offset s =>
  congrArg (s.store (effectiveAddress s rs1 offset) 4) BitVec.extractLsb'_eq_self.symm

section Stores

variable {i : Reg → Reg → BitVec 12 → Instr} {n : Nat}

theorem IsStore.storesAligned (h : IsStore i n) (hn : n ≤ 4) : StoresAligned i n := by
  refine ⟨?_, ?_, ?_⟩
  · rintro rs2 rs1 offset s addr rfl halign hmem hcode
    exact ⟨_, (h ..).trans (State.store_of_outsideCode halign hmem hcode), stores_poke_advance s _ hn _⟩
  · rintro rs2 rs1 offset s addr rfl halign hmem
    exact (h ..).trans (State.store_of_outsideMem halign hmem)
  · rintro rs2 rs1 offset s addr rfl halign hmem hcode
    exact (h ..).trans (State.store_of_inCode halign hmem hcode)

theorem IsStore.storeMisaligned (h : IsStore i n) : StoreMisaligned i n := by
  rintro rs2 rs1 offset s addr rfl hmis
  exact (h ..).trans (State.store_of_misaligned hmis)

/-- A store after which the run goes on has stored, at an aligned address inside `MEM`. -/
theorem IsStore.stores_of_running (h : IsStore i n) (hn : n ≤ 4) {rs2 rs1 : Reg} {offset : BitVec 12} {s t : State}
    (hexec : exec (i rs2 rs1 offset) s = .next t) (ht : t.outcome = .running) :
    (effectiveAddress s rs1 offset).toNat % n = 0 ∧ BytesInMem s (effectiveAddress s rs1 offset) n ∧
      Stores s t (effectiveAddress s rs1 offset) n (s.readReg rs2) := by
  rw [h] at hexec
  obtain ⟨halign, hmem, rfl⟩ := State.store_eq_running hexec ht
  exact ⟨halign, hmem, stores_poke_advance s _ hn _⟩

end Stores

/-! ## The words of the loads and stores (30_encoding.md R39, R41, R45) -/

theorem decodeWord_of_opcode_load {w : Word} (h : opcodeOf w = OPC_LOAD) : decodeWord w = decodeLoad w := by
  rw [decodeWord, h]; rfl

theorem decodeWord_of_opcode_store {w : Word} (h : opcodeOf w = OPC_STORE) : decodeWord w = decodeStore w := by
  rw [decodeWord, h]; rfl

theorem wordsI_of_decodeLoad {f3 : BitVec 3} {i : Reg → Reg → BitVec 12 → Instr}
    (h : ∀ w, funct3Of w = f3 → decodeLoad w = .ok (i (rdOf w) (rs1Of w) (immIOf w))) : WordsI f3 OPC_LOAD i := by
  intro rd rs1 imm
  change decodeWord (encodeI imm rs1 f3 rd OPC_LOAD) = _
  rw [decodeWord_of_opcode_load (opcodeOf_encodeI ..), h _ (funct3Of_encodeI ..)]
  simp

theorem wordsS_of_decodeStore {f3 : BitVec 3} {i : Reg → Reg → BitVec 12 → Instr}
    (h : ∀ w, funct3Of w = f3 → decodeStore w = .ok (i (rs2Of w) (rs1Of w) (immSOf w))) : WordsS f3 i := by
  intro rs2 rs1 high low
  have hword : high ++ rs2 ++ rs1 ++ f3 ++ low ++ OPC_STORE = encodeS (high ++ low) rs2 rs1 f3 OPC_STORE := by
    rw [encodeS, BitVec.extractLsb'_append_eq_left, BitVec.extractLsb'_append_eq_right]
  change decodeWord (high ++ rs2 ++ rs1 ++ f3 ++ low ++ OPC_STORE) = _
  rw [hword, decodeWord_of_opcode_store (opcodeOf_encodeS ..), h _ (funct3Of_encodeS ..)]
  simp

theorem wordsI_lb : WordsI 0b000#3 OPC_LOAD .lb := wordsI_of_decodeLoad fun w h => by rw [decodeLoad, h]; rfl
theorem wordsI_lh : WordsI 0b001#3 OPC_LOAD .lh := wordsI_of_decodeLoad fun w h => by rw [decodeLoad, h]; rfl
theorem wordsI_lbu : WordsI 0b100#3 OPC_LOAD .lbu := wordsI_of_decodeLoad fun w h => by rw [decodeLoad, h]; rfl
theorem wordsI_lhu : WordsI 0b101#3 OPC_LOAD .lhu := wordsI_of_decodeLoad fun w h => by rw [decodeLoad, h]; rfl
theorem wordsI_lw : WordsI 0b010#3 OPC_LOAD .lw := wordsI_of_decodeLoad fun w h => by rw [decodeLoad, h]; rfl

theorem wordsS_sb : WordsS 0b000#3 .sb := wordsS_of_decodeStore fun w h => by rw [decodeStore, h]; rfl
theorem wordsS_sh : WordsS 0b001#3 .sh := wordsS_of_decodeStore fun w h => by rw [decodeStore, h]; rfl
theorem wordsS_sw : WordsS 0b010#3 .sw := wordsS_of_decodeStore fun w h => by rw [decodeStore, h]; rfl

/-- Settles O36: the words of each load, and what a load of its width and extension does. -/
theorem loads : Obligations.Loads :=
  ⟨⟨wordsI_lb, loadsAligned_lb⟩, ⟨wordsI_lh, loadsAligned_lh, isLoad_lh.loadMisaligned⟩, ⟨wordsI_lbu, loadsAligned_lbu⟩,
    ⟨wordsI_lhu, loadsAligned_lhu, isLoad_lhu.loadMisaligned⟩, ⟨wordsI_lw, loadsAligned_lw, isLoad_lw.loadMisaligned⟩⟩

/-- Settles O37: the words of each store, and what a store of its width does. -/
theorem storeInstructions : Obligations.StoreInstructions :=
  ⟨⟨wordsS_sb, isStore_sb.storesAligned (by decide)⟩,
    ⟨wordsS_sh, isStore_sh.storesAligned (by decide), isStore_sh.storeMisaligned⟩,
    ⟨wordsS_sw, isStore_sw.storesAligned (by decide), isStore_sw.storeMisaligned⟩⟩

/-! ## The instructions of a load and of a store -/

/-- An instruction that loads has the shape of a load of its bytes at its address. -/
theorem shapeOf_of_loadBytes {s : State} {i : Instr} {addr : Word} (h : dataAddress s i = some addr)
    (hn : i.loadBytes ≠ 0) : ∃ extend, shapeOf s i = .load addr i.loadBytes extend := by
  cases i with
  | lb | lh | lbu | lhu | lw => cases h; exact ⟨_, rfl⟩
  | _ => exact absurd rfl hn

/-- An instruction that stores has the shape of a store of its bytes at its address. -/
theorem shapeOf_of_storeBytes {s : State} {i : Instr} {addr : Word} (h : dataAddress s i = some addr)
    (hn : i.storeBytes ≠ 0) : ∃ v, shapeOf s i = .store addr i.storeBytes v := by
  cases i with
  | sb | sh | sw => cases h; exact ⟨_, rfl⟩
  | _ => exact absurd rfl hn

theorem dataAddress_of_shapeOf_load {s : State} {i : Instr} {addr : Word} {n : Nat} {extend : BitVec (8 * n) → Word}
    (h : shapeOf s i = .load addr n extend) : dataAddress s i = some addr ∧ i.loadBytes = n ∧ n ∈ [1, 2, 4] := by
  cases i with
  | lb | lh | lbu | lhu | lw => cases h; exact ⟨rfl, rfl, by decide⟩
  | _ => cases h

theorem dataAddress_of_shapeOf_store {s : State} {i : Instr} {addr : Word} {n : Nat} {v : BitVec (8 * n)}
    (h : shapeOf s i = .store addr n v) : dataAddress s i = some addr ∧ i.storeBytes = n ∧ n ∈ [1, 2, 4] := by
  cases i with
  | sb | sh | sw => cases h; exact ⟨rfl, rfl, by decide⟩
  | _ => cases h

/-- An instruction of the shape of a store is SB, SH or SW, and stores the low bytes of x[rs2]. -/
theorem instr_of_shapeOf_store {s : State} {i : Instr} {addr : Word} {n : Nat} {v : BitVec (8 * n)}
    (h : shapeOf s i = .store addr n v) :
    ∃ rs2 rs1 offset, (i = .sb rs2 rs1 offset ∨ i = .sh rs2 rs1 offset ∨ i = .sw rs2 rs1 offset) ∧
      addr = effectiveAddress s rs1 offset ∧ n = i.storeBytes ∧
      ∀ k, k < n → v.extractLsb' (8 * k) 8 = (s.readReg rs2).extractLsb' (8 * k) 8 := by
  cases i with
  | sb => cases h; exact ⟨_, _, _, .inl rfl, rfl, rfl, fun _ => extractLsb'_of_low (n := 1) _⟩
  | sh => cases h; exact ⟨_, _, _, .inr (.inl rfl), rfl, rfl, fun _ => extractLsb'_of_low (n := 2) _⟩
  | sw => cases h; exact ⟨_, _, _, .inr (.inr rfl), rfl, rfl, fun _ _ => rfl⟩
  | _ => cases h

/-! ## Alignment (R25) -/

/-- The exceptions that a shape can raise, each with its info (60_exceptions.md R109); the two of the phases before the
instruction are none of them. -/
def Shape.Raises (shape : Shape) (s : State) : Cause → Word → Prop
  | .instructionAddressMisaligned, info => shape.target = some info ∧ shape.taken = true ∧ info.toNat % 4 ≠ 0
  | .loadAddressMisaligned, info => ∃ n extend, shape = .load info n extend ∧ info.toNat % n ≠ 0
  | .loadAccessFault, info =>
    ∃ n extend, shape = .load info n extend ∧ info.toNat % n = 0 ∧ ¬BytesInMem s info n
  | .storeAddressMisaligned, info => ∃ n v, shape = .store info n v ∧ info.toNat % n ≠ 0
  | .storeAccessFault, info => ∃ n v, shape = .store info n v ∧ info.toNat % n = 0 ∧ ¬BytesInMem s info n
  | .instructionAccessFault, _ => False
  | .illegalInstruction, _ => False

/-- A shape that takes a running state to a fault has raised an exception of its own. -/
theorem Shape.raises_of_run {shape : Shape} {rd : Reg} {s t : State} {cause : Cause} {info pc : Word}
    (hs : s.outcome = .running) (h : shape.run rd s = .next t) (ht : t.outcome = .faulted cause info pc) :
    shape.Raises s cause info := by
  have hgoesOn : t.outcome ≠ s.outcome := by simp [hs, ht]
  cases shape with
  | compute v =>
    cases h
    exact absurd (s.retire_outcome rd v) hgoesOn
  | load addr n extend =>
    rcases s.load_cases rd addr n extend with ⟨hmis, e⟩ | ⟨halign, hout, e⟩ | ⟨-, -, e⟩ <;> cases e.symm.trans h
    · cases ht; exact ⟨n, extend, rfl, hmis⟩
    · cases ht; exact ⟨n, extend, rfl, halign, (not_bytesInMem_iff _ _ _).2 hout⟩
    · exact absurd (s.retire_outcome rd _) hgoesOn
  | store addr n v =>
    rcases s.store_cases addr n v with ⟨hmis, e⟩ | ⟨halign, hout, e⟩ | ⟨-, -, -, e⟩ | ⟨-, -, -, e⟩ <;>
      cases e.symm.trans h
    · cases ht; exact ⟨n, v, rfl, hmis⟩
    · cases ht; exact ⟨n, v, rfl, halign, (not_bytesInMem_iff _ _ _).2 hout⟩
    · cases ht
    · exact absurd rfl hgoesOn
  | jump target =>
    rcases s.jump_cases rd target with ⟨hmis, e⟩ | ⟨-, e⟩ <;> cases e.symm.trans h
    · cases ht; exact ⟨rfl, rfl, hmis⟩
    · exact absurd (s.writeReg_outcome rd _) hgoesOn
  | branch taken target =>
    rcases s.branch_cases taken target with ⟨-, e⟩ | ⟨htaken, hmis, e⟩ | ⟨-, -, e⟩ <;> cases e.symm.trans h
    · exact absurd rfl hgoesOn
    · cases ht; exact ⟨rfl, htaken, hmis⟩
    · exact absurd rfl hgoesOn

/-- An access of one byte is never misaligned. -/
theorem two_or_four_of_misaligned {n a : Nat} (hn : n ∈ [1, 2, 4]) (h : a % n ≠ 0) : n ∈ [2, 4] := by
  rcases List.mem_cons.1 hn with rfl | hn
  · exact absurd (Nat.mod_one a) h
  · exact hn

/-- Settles O40: the shape of the instruction is an access of its bytes at its address, and the other way round. -/
theorem dataAlignment : Obligations.DataAlignment := by
  refine ⟨fun s i addr haddr hn hmis => ?_, fun s i addr haddr hn hmis => ?_, fun s i t info pc hs h ht => ?_,
    fun s i t info pc hs h ht => ?_⟩
  · obtain ⟨extend, hshape⟩ := shapeOf_of_loadBytes haddr hn
    rw [exec_eq_run, hshape]
    exact State.load_of_misaligned hmis
  · obtain ⟨v, hshape⟩ := shapeOf_of_storeBytes haddr hn
    rw [exec_eq_run, hshape]
    exact State.store_of_misaligned hmis
  · rw [exec_eq_run] at h
    obtain ⟨n, extend, hshape, hmis⟩ := Shape.raises_of_run hs h ht
    obtain ⟨haddr, rfl, hmem⟩ := dataAddress_of_shapeOf_load hshape
    exact ⟨two_or_four_of_misaligned hmem hmis, haddr, hmis⟩
  · rw [exec_eq_run] at h
    obtain ⟨n, v, hshape, hmis⟩ := Shape.raises_of_run hs h ht
    obtain ⟨haddr, rfl, hmem⟩ := dataAddress_of_shapeOf_store hshape
    exact ⟨two_or_four_of_misaligned hmem hmis, haddr, hmis⟩

/-! ## What changes memory (R28, R31) -/

/-- An instruction that changes a byte is a store whose bytes, all in `MEM` and outside `CODE`, have that one among them. -/
theorem exec_changes_byte {i : Instr} {s t : State} {a : Nat} (h : exec i s = .next t)
    (hne : t.mem.read a ≠ s.mem.read a) :
    ∃ addr n v, shapeOf s i = .store addr n v ∧ a ∈ accessAddresses addr n ∧ BytesInMem s addr n ∧
      BytesOutsideCode s addr n ∧ t.mem = (s.poke addr n v).mem := by
  rcases exec_cases i s with ⟨o, -, e⟩ | ⟨rd, v, pc, -, -, e⟩ | ⟨mem, pc, -, -, hmem, e⟩ <;> cases e.symm.trans h
  · exact absurd rfl hne
  · exact absurd (by simp) hne
  · rcases hmem with rfl | ⟨addr, n, v, hshape, hin, hcode, rfl⟩
    · exact absurd rfl hne
    · refine ⟨addr, n, v, hshape, ?_, (bytesInMem_iff s addr n).2 hin, (bytesOutsideCode_iff s addr n).2 hcode, rfl⟩
      by_contra ha
      exact hne (s.read_poke_of_notMem addr n v a ha)

/-- A step that changes a byte executes an instruction. -/
theorem step_changes_byte {s t : State} {a : Nat} (h : step s = .next t) (hne : t.mem.read a ≠ s.mem.read a) :
    ∃ i, Executes s i ∧ exec i s = .next t := by
  rcases step_cases s with ⟨-, e⟩ | ⟨-, -, e⟩ | ⟨-, -, -, e⟩ | ⟨-, -, e⟩ | ⟨hfetches, i, hdecode, e⟩ <;> rw [e] at h
  · exact absurd (by rw [State.eq_of_afterRun h]) hne
  · cases h; exact absurd rfl hne
  · cases h; exact absurd rfl hne
  · cases h; exact absurd rfl hne
  · exact ⟨i, ⟨hfetches, s.peek_pc ▸ hdecode⟩, h⟩

/-- Settles O45: the step executes an instruction that stores, and the byte is one of those it puts into memory. -/
theorem onlyStoresChangeMemory : Obligations.OnlyStoresChangeMemory := by
  intro s t a h hne
  obtain ⟨i, hexecutes, hexec⟩ := step_changes_byte h hne
  obtain ⟨addr, n, v, hshape, ha, hmem, hcode, ht⟩ := exec_changes_byte hexec hne
  obtain ⟨-, -, hn⟩ := dataAddress_of_shapeOf_store hshape
  obtain ⟨rs2, rs1, offset, hi, rfl, rfl, hbytes⟩ := instr_of_shapeOf_store hshape
  obtain ⟨k, hk, rfl⟩ := (mem_accessAddresses _ _ _).1 ha
  refine ⟨hmem k hk, hcode k hk, rs2, rs1, offset, i, k, hexecutes, hi, hk, rfl, ?_⟩
  have hle : i.storeBytes ≤ 2 ^ 32 := by
    simp only [List.mem_cons, List.not_mem_nil, or_false] at hn
    omega
  rw [ht, s.read_poke_of_lt _ _ v k hk hle, hbytes k hk]

/-! ## `CODE` along a run (R34) -/

theorem step_keeps_code {s t : State} {a : Nat} (h : step s = .next t) (ha : s.env.inCode a = true) :
    t.mem.read a = s.mem.read a := by
  by_contra hne
  obtain ⟨-, hout, -⟩ := onlyStoresChangeMemory s t a h hne
  simp [ha] at hout

/-- `CODE` is the same set after a run, and its bytes read as before it. -/
theorem run_keeps_code {k : Nat} {s t : State} (hrun : Host.Core.run Sys2Proof.core k s = .next t) {a : Nat}
    (ha : s.env.inCode a = true) : t.mem.read a = s.mem.read a := by
  have hkeeps := run_keeps (M := Sys2Proof.core)
    (P := fun u : State => u.env.inCode a = true ∧ u.mem.read a = s.mem.read a)
    (fun u v hstep hu => ⟨step_keeps_env hstep ▸ hu.1, (step_keeps_code hstep hu.1).trans hu.2⟩) k hrun ⟨ha, rfl⟩
  exact hkeeps.2

/-- Two memories that read alike at the pc and the three addresses after it have the same word there. -/
theorem wordAtPc_congr {s t : State} (hpc : t.pc = s.pc)
    (h : ∀ a ∈ accessAddresses s.pc 4, t.mem.read a = s.mem.read a) : wordAtPc t = wordAtPc s := by
  rw [← t.peek_pc, ← s.peek_pc, State.peek, State.peek, hpc]
  exact congrArg (valueOfBytes 4) (List.map_congr_left h)

/-- Settles O23: no step changes a byte of `CODE`, loads take `CODE` for a part of `MEM`, and a store into it is refused. -/
theorem codeNeverChanges : Obligations.CodeNeverChanges := by
  refine ⟨fun k s t hrun => ⟨run_keeps_env hrun, fun a => run_keeps_code hrun, fun pc hcode => ?_⟩,
    fun e a => Env.inMem_of_inCode,
    ⟨loadsAligned_lb.loadsFromCode, loadsAligned_lh.loadsFromCode, loadsAligned_lbu.loadsFromCode,
      loadsAligned_lhu.loadsFromCode, loadsAligned_lw.loadsFromCode⟩,
    fun s i addr hn haddr halign hmem hcode => ?_⟩
  · exact wordAtPc_congr rfl fun a ha => run_keeps_code hrun (hcode a ha)
  · obtain ⟨v, hshape⟩ := shapeOf_of_storeBytes haddr hn
    rw [← shapeOf_stored, hshape] at hcode
    rw [exec_eq_run, hshape]
    exact State.store_of_inCode halign hmem ((not_bytesOutsideCode_iff s addr _).2 hcode)

/-! ## Byte order across widths (R21) -/

theorem Stores.byteAt_eq {s t : State} {addr v : Word} {n k : Nat} (h : Stores s t addr n v) (hk : k < n) :
    byteAt t.mem (addr + BitVec.ofNat 32 k) = v.extractLsb' (8 * k) 8 :=
  h.1 k hk

/-- After a store of which it is a part, a halfword is those two bytes of the value. -/
theorem Stores.halfAt_eq {s t : State} {addr v : Word} {n k : Nat} (h : Stores s t addr n v) (hk : k + 1 < n) :
    halfAt t.mem (addr + BitVec.ofNat 32 k) = v.extractLsb' (8 * k) 16 := by
  have hlow := h.1 k (by omega)
  have hhigh := h.1 (k + 1) hk
  rw [halfAt, add_ofNat_add_ofNat addr k 1, hlow, hhigh]
  exact BitVec.extractLsb'_append_extractLsb'_eq_extractLsb' (by omega)

/-- After a store of a word, the word there is the value. -/
theorem Stores.wordAt_eq {s t : State} {addr v : Word} (h : Stores s t addr 4 v) : wordAt t.mem addr = v := by
  have h0 := h.1 0 (by decide)
  have h1 := h.1 1 (by decide)
  have h2 := h.1 2 (by decide)
  have h3 := h.1 3 (by decide)
  rw [BitVec.add_zero] at h0
  rw [wordAt, h0, h1, h2, h3]
  exact (valueOfBytes_four ..).symm.trans (valueOfBytes_bytesOfValue_four v)

/-- A halfword of an aligned word is aligned. -/
theorem aligned_half {addr : Word} {k : Nat} (h : addr.toNat % 4 = 0) (hk : k = 0 ∨ k = 2) :
    (addr + BitVec.ofNat 32 k).toNat % 2 = 0 := by
  rcases hk with rfl | rfl <;> simp only [BitVec.toNat_add, BitVec.toNat_ofNat] <;> omega

/-- The fetch of four bytes in `CODE` gives the word that they make (R24). -/
theorem State.fetch_of_codeAtPc (s : State) (h : codeAtPc s) : s.fetch = .ok (wordAtPc s) := by
  rcases s.fetch_cases with ⟨⟨a, ha, hout⟩, -⟩ | ⟨-, hfetch⟩
  · simp [h a ha] at hout
  · rw [hfetch, s.peek_pc]

/-- Settles O38: the loads read what the store has put there, byte by byte, and so does the fetch. -/
theorem littleEndianMixedWidths : Obligations.LittleEndianMixedWidths := by
  refine ⟨fun rs2 rs1 offset s t _ hexec ht => ?_, fun s => s.fetch_of_codeAtPc⟩
  obtain ⟨halign, hmem, hstores⟩ := isStore_sw.stores_of_running (by decide) hexec ht
  have ⟨_, _, _, _, _, henv⟩ := hstores
  refine ⟨fun rd base o k hk haddr => ?_, fun rd base o k hk haddr => ?_, fun rd base o haddr => ?_⟩
  · rw [← hstores.byteAt_eq hk]
    exact loadsAligned_lbu.1 rd base o t _ haddr.symm (Nat.mod_one _) (hmem.of_within henv hk)
  · rw [← hstores.halfAt_eq (by omega)]
    exact loadsAligned_lhu.1 rd base o t _ haddr.symm (aligned_half halign hk) (hmem.of_within henv (by omega))
  · rw [← hstores.wordAt_eq]
    exact loadsAligned_lw.1 rd base o t _ haddr.symm halign fun k hk => henv ▸ hmem k hk

/-! ## Addresses (R36) -/

/-- The effective address is the exact sum of the register and the signed offset, modulo 2^32. -/
theorem effectiveAddress_eq_to32 (s : State) (rs1 : Reg) (offset : BitVec 12) :
    effectiveAddress s rs1 offset = to32 (((s.readReg rs1).toNat : Int) + offset.toInt) := by
  rw [to32, BitVec.ofInt_add, BitVec.ofInt_natCast, BitVec.ofNat_toNat, BitVec.setWidth_eq]
  rfl

/-- An aligned access of 1, 2 or 4 bytes touches its addresses without wrapping. -/
theorem accessAddresses_of_aligned {addr : Word} {n : Nat} (hn : n ∈ [1, 2, 4]) (h : addr.toNat % n = 0) :
    accessAddresses addr n = (List.range n).map fun k => addr.toNat + k := by
  refine List.map_congr_left fun k hk => ?_
  have hk := List.mem_range.1 hk
  have hlt := addr.isLt
  have hfits : addr.toNat + k < 2 ^ 32 := by
    simp only [List.mem_cons, List.not_mem_nil, or_false] at hn
    rcases hn with rfl | rfl | rfl <;> omega
  rw [BitVec.toNat_add, BitVec.toNat_ofNat]
  omega

/-- Settles O39: one sum for all eight instructions, and no aligned access reaches past the top. -/
theorem effectiveAddressWraps : Obligations.EffectiveAddressWraps := by
  refine ⟨fun s rs1 offset => ⟨effectiveAddress_eq_to32 s rs1 offset, fun rd i hi => ?_⟩,
    fun addr n => accessAddresses_of_aligned⟩
  rw [← effectiveAddress_eq_to32]
  simp only [List.mem_cons, List.not_mem_nil, or_false] at hi
  rcases hi with rfl | rfl | rfl | rfl | rfl | rfl | rfl | rfl <;> rfl

/-! ## The opcodes that the machine does not have (R32, R127) -/

/-- The step where the word is in `CODE` and is no instruction (60_exceptions.md R110). -/
theorem step_of_illegal {s : State} (hfetches : Fetches s) {c : IllegalClass}
    (hdecode : decodeWord (wordAtPc s) = .error c) :
    step s = .next (faultedAt s .illegalInstruction (wordAtPc s)) := by
  obtain ⟨hrun, hend, hcode⟩ := hfetches
  simp only [step, hrun, hend, if_false, s.fetch_of_codeAtPc hcode, hdecode]
  rfl

theorem decodeWord_of_fenceOrSystem {w : Word} (h : opcodeOf w = 0b0001111#7 ∨ opcodeOf w = 0b1110011#7) :
    decodeWord w = .error .unknownOpcode := by
  rcases h with h | h <;> rw [decodeWord, h] <;> rfl

/-- Settles O5: the opcode of the word is none of the nine, whatever its other bits. -/
theorem noFenceAndNoSystemInstruction : Obligations.NoFenceAndNoSystemInstruction := by
  intro s upper op hop hfetches hword
  have hopcode : opcodeOf (wordAtPc s) = op := by
    rw [hword]
    exact BitVec.extractLsb'_append_eq_right
  rw [← hopcode] at hop
  rw [← hword]
  exact step_of_illegal hfetches (decodeWord_of_fenceOrSystem hop)

end Sys2Proof.Machine

namespace Sys2Proof.Machine

/-! # The encoding: words, instructions and the opcode table (30_encoding.md R37 to R48) -/

/-! ## The decoder of each opcode (R45) -/

section Opcodes

variable {w : Word}

theorem decodeWord_of_opcode_lui (h : opcodeOf w = OPC_LUI) : decodeWord w = .ok (.lui (rdOf w) (immUOf w)) := by
  rw [decodeWord, h]; rfl

theorem decodeWord_of_opcode_auipc (h : opcodeOf w = OPC_AUIPC) : decodeWord w = .ok (.auipc (rdOf w) (immUOf w)) := by
  rw [decodeWord, h]; rfl

theorem decodeWord_of_opcode_jal (h : opcodeOf w = OPC_JAL) : decodeWord w = .ok (.jal (rdOf w) (immJOf w)) := by
  rw [decodeWord, h]; rfl

theorem decodeWord_of_opcode_jalr (h : opcodeOf w = OPC_JALR) : decodeWord w = decodeJalr w := by
  rw [decodeWord, h]; rfl

theorem decodeWord_of_opcode_op (h : opcodeOf w = OPC_OP) : decodeWord w = decodeOp w := by
  rw [decodeWord, h]; rfl

theorem decodeWord_of_opcode_opImm (h : opcodeOf w = OPC_OP_IMM) : decodeWord w = decodeOpImm w := by
  rw [decodeWord, h]; rfl

theorem decodeWord_of_opcode_branch (h : opcodeOf w = OPC_BRANCH) : decodeWord w = decodeBranch w := by
  rw [decodeWord, h]; rfl

end Opcodes

/-! ## The word of a decoded instruction (R38 to R45) -/

section Fields

variable {w : Word} {f3 : BitVec 3} {op : BitVec 7}

theorem encodeR_of_fields {f7 : BitVec 7} (h7 : funct7Of w = f7) (h3 : funct3Of w = f3) (ho : opcodeOf w = op) :
    encodeR f7 (rs2Of w) (rs1Of w) f3 (rdOf w) op = w := by
  subst h7 h3 ho; exact encodeR_fields w

theorem encodeI_of_fields (h3 : funct3Of w = f3) (ho : opcodeOf w = op) :
    encodeI (immIOf w) (rs1Of w) f3 (rdOf w) op = w := by
  subst h3 ho; exact encodeI_fields w

theorem encodeS_of_fields (h3 : funct3Of w = f3) (ho : opcodeOf w = op) :
    encodeS (immSOf w) (rs2Of w) (rs1Of w) f3 op = w := by
  subst h3 ho; exact encodeS_fields w

theorem encodeB_of_fields (h3 : funct3Of w = f3) (ho : opcodeOf w = op) :
    encodeB (immBOf w) (rs2Of w) (rs1Of w) f3 op = w := by
  subst h3 ho; exact encodeB_fields w

theorem encodeU_of_opcode (ho : opcodeOf w = op) : encodeU (immUOf w) (rdOf w) op = w := by
  subst ho; exact encodeU_fields w

theorem encodeJ_of_opcode (ho : opcodeOf w = op) : encodeJ (immJOf w) (rdOf w) op = w := by
  subst ho; exact encodeJ_fields w

end Fields

section Encoded

variable {w : Word} {i : Instr}

theorem encode_of_decodeOp (ho : opcodeOf w = OPC_OP) (h : decodeOp w = .ok i) : encode i = w := by
  unfold decodeOp at h
  split_ifs at h
  · unfold decodeOpBase at h
    split at h <;> cases h <;> exact encodeR_of_fields ‹_› ‹_› ho
  · unfold decodeOpAlternate at h
    split at h <;> cases h <;> exact encodeR_of_fields ‹_› ‹_› ho
  · unfold decodeOpMulDiv at h
    split at h <;> cases h <;> exact encodeR_of_fields ‹_› ‹_› ho

theorem encode_of_decodeOpImm (ho : opcodeOf w = OPC_OP_IMM) (h : decodeOpImm w = .ok i) : encode i = w := by
  unfold decodeOpImm at h
  split at h
  case h_7 | h_8 => split_ifs at h <;> cases h <;> exact encodeR_of_fields ‹_› ‹_› ho
  all_goals cases h; exact encodeI_of_fields ‹_› ho

theorem encode_of_decodeJalr (ho : opcodeOf w = OPC_JALR) (h : decodeJalr w = .ok i) : encode i = w := by
  unfold decodeJalr at h
  split at h <;> cases h; exact encodeI_of_fields ‹_› ho

theorem encode_of_decodeBranch (ho : opcodeOf w = OPC_BRANCH) (h : decodeBranch w = .ok i) : encode i = w := by
  unfold decodeBranch at h
  split at h <;> cases h <;> exact encodeB_of_fields ‹_› ho

theorem encode_of_decodeLoad (ho : opcodeOf w = OPC_LOAD) (h : decodeLoad w = .ok i) : encode i = w := by
  unfold decodeLoad at h
  split at h <;> cases h <;> exact encodeI_of_fields ‹_› ho

theorem encode_of_decodeStore (ho : opcodeOf w = OPC_STORE) (h : decodeStore w = .ok i) : encode i = w := by
  unfold decodeStore at h
  split at h <;> cases h <;> exact encodeS_of_fields ‹_› ho

/-- No bit of a word that decodes is dropped: the word is the encoding of its instruction. -/
theorem encode_of_decodeWord (h : decodeWord w = .ok i) : encode i = w := by
  unfold decodeWord at h
  split_ifs at h
  · cases h; exact encodeU_of_opcode ‹_›
  · cases h; exact encodeU_of_opcode ‹_›
  · cases h; exact encodeJ_of_opcode ‹_›
  · exact encode_of_decodeJalr ‹_› h
  · exact encode_of_decodeOp ‹_› h
  · exact encode_of_decodeOpImm ‹_› h
  · exact encode_of_decodeBranch ‹_› h
  · exact encode_of_decodeLoad ‹_› h
  · exact encode_of_decodeStore ‹_› h

end Encoded

/-- Settles O2: the word is read back field by field, and the offsets that a word holds are even. -/
theorem decodeThenEncode : Obligations.DecodeThenEncode :=
  fun _ _ h => ⟨wellFormed_of_decodeWord h, encode_of_decodeWord h⟩

/-! ## The instruction of an encoded word (R38 to R46) -/

theorem decodeWord_encodeR_op (f7 : BitVec 7) (rs2 rs1 : Reg) (f3 : BitVec 3) (rd : Reg) :
    decodeWord (encodeR f7 rs2 rs1 f3 rd OPC_OP) =
      if f7 = 0b0000000#7 then decodeOpBase rd rs1 rs2 f3
      else if f7 = 0b0100000#7 then decodeOpAlternate rd rs1 rs2 f3
      else if f7 = 0b0000001#7 then decodeOpMulDiv rd rs1 rs2 f3
      else .error .reservedOp := by
  rw [decodeWord_of_opcode_op (opcodeOf_encodeR ..), decodeOp, funct7Of_encodeR, rdOf_encodeR, rs1Of_encodeR, rs2Of_encodeR,
    funct3Of_encodeR]

/-- Every operand that a well-formed instruction can have stands in its word, and is read from it again. -/
theorem decodeWord_encode {i : Instr} (h : i.wellFormed = true) : decodeWord (encode i) = .ok i := by
  cases i
  case lui rd imm => rw [encode, decodeWord_of_opcode_lui (opcodeOf_encodeU ..), rdOf_encodeU, immUOf_encodeU]
  case auipc rd imm => rw [encode, decodeWord_of_opcode_auipc (opcodeOf_encodeU ..), rdOf_encodeU, immUOf_encodeU]
  case jal rd offset => rw [encode, decodeWord_of_opcode_jal (opcodeOf_encodeJ ..), rdOf_encodeJ, immJOf_encodeJ _ _ _ h]
  case add | sub | mul | mulh | mulhsu | mulhu | div | divu | rem | remu | xor | or | and | sll | srl | sra | slt | sltu =>
    exact decodeWord_encodeR_op ..
  case slli | srli | srai =>
    rw [encode, decodeWord_of_opcode_opImm (opcodeOf_encodeR ..)]
    simp [decodeOpImm]
  case addi | xori | ori | andi | slti | sltiu =>
    rw [encode, decodeWord_of_opcode_opImm (opcodeOf_encodeI ..)]
    simp [decodeOpImm]
  case jalr =>
    rw [encode, decodeWord_of_opcode_jalr (opcodeOf_encodeI ..)]
    simp [decodeJalr]
  case lb | lh | lbu | lhu | lw =>
    rw [encode, decodeWord_of_opcode_load (opcodeOf_encodeI ..)]
    simp [decodeLoad]
  case sb | sh | sw =>
    rw [encode, decodeWord_of_opcode_store (opcodeOf_encodeS ..)]
    simp [decodeStore]
  case beq | bne | blt | bge | bltu | bgeu =>
    rw [encode, decodeWord_of_opcode_branch (opcodeOf_encodeB ..)]
    simp [decodeBranch, immBOf_encodeB _ _ _ _ _ h]

/-- The four bytes of a word that decodes, and any bytes after them. -/
theorem decode_bytesOfValue_append {w : Word} {i : Instr} (h : decodeWord w = .ok i) (rest : List Byte) :
    decode (bytesOfValue 4 w ++ rest) = .ok (i, rest) := by
  have hword : valueOfBytes 4 [w.extractLsb' 0 8, w.extractLsb' 8 8, w.extractLsb' 16 8, w.extractLsb' 24 8] = w :=
    valueOfBytes_bytesOfValue_four w
  simp [bytesOfValue_four, decode, hword, h]

/-- Settles O1: by the format of the instruction, the fields of its word are its operands. -/
theorem encodeThenDecode : Obligations.EncodeThenDecode :=
  fun _ h => ⟨decodeWord_encode h, decode_bytesOfValue_append (decodeWord_encode h)⟩

/-! ## The fields that a row of the opcode table fixes (R45, R46) -/

/-- A word has, in every field that the row's mask covers, the bits of the row's pattern. -/
theorem field_eq_of_fits {row : OpcodeRow} {w : Word} (h : row.fits w = true) {first width : Nat}
    (hmask : row.mask.extractLsb' first width = BitVec.allOnes width) :
    w.extractLsb' first width = row.pattern.extractLsb' first width := by
  have hand : w &&& row.mask = row.pattern := by simpa [OpcodeRow.fits] using h
  rw [← hand, BitVec.extractLsb'_and, hmask, BitVec.and_allOnes]

/-- The mnemonic of a decoded instruction. -/
def mnemonicOf (decoded : Except IllegalClass Instr) : Option String := decoded.toOption.map Instr.mnemonic

theorem mnemonicOf_eq_some {decoded : Except IllegalClass Instr} {name : String} (h : mnemonicOf decoded = some name) :
    ∃ i, decoded = .ok i ∧ i.mnemonic = name := by
  cases decoded with
  | error c => cases h
  | ok i => exact ⟨i, rfl, Option.some.inj h⟩

/-- The decoder reads funct3 of a word with this opcode. -/
def ReadsFunct3 (op : BitVec 7) : Prop := op ≠ OPC_LUI ∧ op ≠ OPC_AUIPC ∧ op ≠ OPC_JAL

/-- The decoder reads funct7 of a word with this opcode and funct3. -/
def ReadsFunct7 (op : BitVec 7) (f3 : BitVec 3) : Prop :=
  op = OPC_OP ∨ op = OPC_OP_IMM ∧ (f3 = 0b001#3 ∨ f3 = 0b101#3)

section Mnemonic

variable {w p : Word}

theorem mnemonicOf_decodeOp (h7 : funct7Of w = funct7Of p) (h3 : funct3Of w = funct3Of p) :
    mnemonicOf (decodeOp w) = mnemonicOf (decodeOp p) := by
  unfold decodeOp
  rw [h7, h3]
  split_ifs
  · unfold decodeOpBase
    split <;> rfl
  · unfold decodeOpAlternate
    split <;> rfl
  · unfold decodeOpMulDiv
    split <;> rfl
  · rfl

theorem mnemonicOf_decodeOpImm (h3 : funct3Of w = funct3Of p)
    (h7 : funct3Of p = 0b001#3 ∨ funct3Of p = 0b101#3 → funct7Of w = funct7Of p) :
    mnemonicOf (decodeOpImm w) = mnemonicOf (decodeOpImm p) := by
  unfold decodeOpImm
  rw [h3]
  split
  case h_7 hf => rw [h7 (.inl hf)]; split_ifs <;> rfl
  case h_8 hf => rw [h7 (.inr hf)]; split_ifs <;> rfl
  all_goals rfl

theorem mnemonicOf_decodeJalr (h3 : funct3Of w = funct3Of p) : mnemonicOf (decodeJalr w) = mnemonicOf (decodeJalr p) := by
  unfold decodeJalr
  rw [h3]
  split <;> rfl

theorem mnemonicOf_decodeBranch (h3 : funct3Of w = funct3Of p) :
    mnemonicOf (decodeBranch w) = mnemonicOf (decodeBranch p) := by
  unfold decodeBranch
  rw [h3]
  split <;> rfl

theorem mnemonicOf_decodeLoad (h3 : funct3Of w = funct3Of p) : mnemonicOf (decodeLoad w) = mnemonicOf (decodeLoad p) := by
  unfold decodeLoad
  rw [h3]
  split <;> rfl

theorem mnemonicOf_decodeStore (h3 : funct3Of w = funct3Of p) :
    mnemonicOf (decodeStore w) = mnemonicOf (decodeStore p) := by
  unfold decodeStore
  rw [h3]
  split <;> rfl

/-- Two words that agree in the fields that the decoder reads decode to the same mnemonic. -/
theorem mnemonicOf_decodeWord (ho : opcodeOf w = opcodeOf p)
    (h3 : ReadsFunct3 (opcodeOf p) → funct3Of w = funct3Of p)
    (h7 : ReadsFunct7 (opcodeOf p) (funct3Of p) → funct7Of w = funct7Of p) :
    mnemonicOf (decodeWord w) = mnemonicOf (decodeWord p) := by
  unfold decodeWord
  rw [ho]
  split_ifs with hlui hauipc hjal hjalr hop himm
  · rfl
  · rfl
  · rfl
  all_goals have h3 := h3 ⟨hlui, hauipc, hjal⟩
  · exact mnemonicOf_decodeJalr h3
  · exact mnemonicOf_decodeOp (h7 (.inl hop)) h3
  · exact mnemonicOf_decodeOpImm h3 fun hf => h7 (.inr ⟨himm, hf⟩)
  · exact mnemonicOf_decodeBranch h3
  · exact mnemonicOf_decodeLoad h3
  · exact mnemonicOf_decodeStore h3
  · rfl

end Mnemonic

/-! ## The opcode table (R45, R46) -/

/-- The mask of every row covers the fields that the decoder reads of the row's pattern, and the pattern itself decodes to the
row's mnemonic. -/
theorem pattern_of_mem_opcodeTable : ∀ row ∈ opcodeTable,
    opcodeOf row.mask = BitVec.allOnes 7 ∧
    (ReadsFunct3 (opcodeOf row.pattern) → funct3Of row.mask = BitVec.allOnes 3) ∧
    (ReadsFunct7 (opcodeOf row.pattern) (funct3Of row.pattern) → funct7Of row.mask = BitVec.allOnes 7) ∧
    mnemonicOf (decodeWord row.pattern) = some row.mnemonic := by
  unfold ReadsFunct3 ReadsFunct7
  decide

theorem decodeWord_of_fits {w : Word} {row : OpcodeRow} (hrow : row ∈ opcodeTable) (h : row.fits w = true) :
    ∃ i, decodeWord w = .ok i ∧ i.mnemonic = row.mnemonic := by
  obtain ⟨hopcode, hfunct3, hfunct7, hpattern⟩ := pattern_of_mem_opcodeTable row hrow
  refine mnemonicOf_eq_some ((mnemonicOf_decodeWord ?_ (fun hr => ?_) fun hr => ?_).trans hpattern)
  · exact field_eq_of_fits h hopcode
  · exact field_eq_of_fits h (hfunct3 hr)
  · exact field_eq_of_fits h (hfunct7 hr)

theorem eq_of_mnemonic_eq : ∀ r ∈ opcodeTable, ∀ q ∈ opcodeTable, r.mnemonic = q.mnemonic → r = q :=
  List.inj_on_of_nodup_map (by decide)

/-- The word of every instruction is one of the row that bears its mnemonic. -/
theorem exists_row_fits_encode : ∀ i, Laws.OpcodeRow.Statement i
  | .lui .. => Laws.OpcodeRow.lui ..
  | .auipc .. => Laws.OpcodeRow.auipc ..
  | .add .. => Laws.OpcodeRow.add ..
  | .addi .. => Laws.OpcodeRow.addi ..
  | .sub .. => Laws.OpcodeRow.sub ..
  | .mul .. => Laws.OpcodeRow.mul ..
  | .mulh .. => Laws.OpcodeRow.mulh ..
  | .mulhsu .. => Laws.OpcodeRow.mulhsu ..
  | .mulhu .. => Laws.OpcodeRow.mulhu ..
  | .div .. => Laws.OpcodeRow.div ..
  | .divu .. => Laws.OpcodeRow.divu ..
  | .rem .. => Laws.OpcodeRow.rem ..
  | .remu .. => Laws.OpcodeRow.remu ..
  | .xor .. => Laws.OpcodeRow.xor ..
  | .xori .. => Laws.OpcodeRow.xori ..
  | .or .. => Laws.OpcodeRow.or ..
  | .ori .. => Laws.OpcodeRow.ori ..
  | .and .. => Laws.OpcodeRow.and ..
  | .andi .. => Laws.OpcodeRow.andi ..
  | .sll .. => Laws.OpcodeRow.sll ..
  | .slli .. => Laws.OpcodeRow.slli ..
  | .srl .. => Laws.OpcodeRow.srl ..
  | .srli .. => Laws.OpcodeRow.srli ..
  | .sra .. => Laws.OpcodeRow.sra ..
  | .srai .. => Laws.OpcodeRow.srai ..
  | .slt .. => Laws.OpcodeRow.slt ..
  | .slti .. => Laws.OpcodeRow.slti ..
  | .sltiu .. => Laws.OpcodeRow.sltiu ..
  | .sltu .. => Laws.OpcodeRow.sltu ..
  | .jal .. => Laws.OpcodeRow.jal ..
  | .jalr .. => Laws.OpcodeRow.jalr ..
  | .beq .. => Laws.OpcodeRow.beq ..
  | .bne .. => Laws.OpcodeRow.bne ..
  | .blt .. => Laws.OpcodeRow.blt ..
  | .bge .. => Laws.OpcodeRow.bge ..
  | .bltu .. => Laws.OpcodeRow.bltu ..
  | .bgeu .. => Laws.OpcodeRow.bgeu ..
  | .lb .. => Laws.OpcodeRow.lb ..
  | .lh .. => Laws.OpcodeRow.lh ..
  | .lbu .. => Laws.OpcodeRow.lbu ..
  | .lhu .. => Laws.OpcodeRow.lhu ..
  | .lw .. => Laws.OpcodeRow.lw ..
  | .sb .. => Laws.OpcodeRow.sb ..
  | .sh .. => Laws.OpcodeRow.sh ..
  | .sw .. => Laws.OpcodeRow.sw ..

theorem exists_row_of_decodeWord {w : Word} {i : Instr} (h : decodeWord w = .ok i) :
    ∃ row ∈ opcodeTable, row.mnemonic = i.mnemonic ∧ row.fits w = true :=
  encode_of_decodeWord h ▸ exists_row_fits_encode i

theorem step_of_no_row {s : State} (hfetches : Fetches s)
    (h : ∀ row ∈ opcodeTable, row.fits (wordAtPc s) = false) :
    step s = .next (faultedAt s .illegalInstruction (wordAtPc s)) := by
  cases hdecode : decodeWord (wordAtPc s) with
  | error why => exact step_of_illegal hfetches hdecode
  | ok i =>
    obtain ⟨row, hrow, -, hfits⟩ := exists_row_of_decodeWord hdecode
    simp [h row hrow] at hfits

/-- Settles O3: a row decides the mnemonic that its words decode to, and no two rows have one mnemonic. -/
theorem decodeFollowsOpcodeTable : Obligations.DecodeFollowsOpcodeTable := by
  refine ⟨rfl, fun w r hr q hq hfr hfq => ?_, fun _ _ => exists_row_of_decodeWord, fun _ _ => decodeWord_of_fits,
    fun _ => step_of_no_row⟩
  obtain ⟨i, hi, hir⟩ := decodeWord_of_fits hr hfr
  obtain ⟨j, hj, hjq⟩ := decodeWord_of_fits hq hfq
  obtain rfl : i = j := Except.ok.inj (hi.symm.trans hj)
  exact eq_of_mnemonic_eq r hr q hq (hir.symm.trans hjq)

/-! ## The illegal words (R47, R48) -/

/-- The values of funct3, of which a decoder names some. -/
theorem mem_of_funct3 : ∀ f3 : BitVec 3,
    f3 ∈ [0b000#3, 0b001#3, 0b010#3, 0b011#3, 0b100#3, 0b101#3, 0b110#3, 0b111#3] := by decide

section Illegal

variable {w : Word}

theorem exists_decodeOp_eq_error : (∃ why, decodeOp w = .error why) ↔
    funct7Of w ∉ [0b0000000#7, 0b0100000#7, 0b0000001#7] ∨
      (funct7Of w = 0b0100000#7 ∧ funct3Of w ∉ [0b000#3, 0b101#3]) := by
  unfold decodeOp
  split_ifs with hbase halternate hmulDiv
  · rw [hbase]
    unfold decodeOpBase
    split <;> simp
  · rw [halternate]
    unfold decodeOpAlternate
    split <;> simp_all
  · rw [hmulDiv]
    unfold decodeOpMulDiv
    split <;> simp
  · simp [hbase, halternate, hmulDiv]

theorem exists_decodeOpImm_eq_error : (∃ why, decodeOpImm w = .error why) ↔
    (funct3Of w = 0b001#3 ∧ funct7Of w ≠ 0b0000000#7) ∨
      (funct3Of w = 0b101#3 ∧ funct7Of w ∉ [0b0000000#7, 0b0100000#7]) := by
  unfold decodeOpImm
  split
  case h_7 hf => rw [hf]; split_ifs with hbase <;> simp [hbase]
  case h_8 hf => rw [hf]; split_ifs with hbase halternate <;> simp [*]
  all_goals simp [*]

theorem exists_decodeJalr_eq_error : (∃ why, decodeJalr w = .error why) ↔ funct3Of w ≠ 0b000#3 := by
  unfold decodeJalr
  split <;> simp_all

theorem exists_decodeBranch_eq_error : (∃ why, decodeBranch w = .error why) ↔ funct3Of w ∈ [0b010#3, 0b011#3] := by
  unfold decodeBranch
  have hcases := mem_of_funct3 (funct3Of w)
  split <;> simp_all

theorem exists_decodeLoad_eq_error : (∃ why, decodeLoad w = .error why) ↔
    funct3Of w ∈ [0b011#3, 0b110#3, 0b111#3] := by
  unfold decodeLoad
  have hcases := mem_of_funct3 (funct3Of w)
  split <;> simp_all

theorem exists_decodeStore_eq_error : (∃ why, decodeStore w = .error why) ↔
    funct3Of w ∈ [0b011#3, 0b100#3, 0b101#3, 0b110#3, 0b111#3] := by
  unfold decodeStore
  have hcases := mem_of_funct3 (funct3Of w)
  split <;> simp_all

theorem illegalWord_iff_decoders : IllegalWord w ↔
    opcodeOf w ∉ [OPC_LOAD, OPC_OP_IMM, OPC_AUIPC, OPC_STORE, OPC_OP, OPC_LUI, OPC_BRANCH, OPC_JALR, OPC_JAL] ∨
      (opcodeOf w = OPC_OP ∧ ∃ why, decodeOp w = .error why) ∨
      (opcodeOf w = OPC_OP_IMM ∧ ∃ why, decodeOpImm w = .error why) ∨
      (opcodeOf w = OPC_JALR ∧ ∃ why, decodeJalr w = .error why) ∨
      (opcodeOf w = OPC_BRANCH ∧ ∃ why, decodeBranch w = .error why) ∨
      (opcodeOf w = OPC_LOAD ∧ ∃ why, decodeLoad w = .error why) ∨
      (opcodeOf w = OPC_STORE ∧ ∃ why, decodeStore w = .error why) := by
  rw [exists_decodeOp_eq_error, exists_decodeOpImm_eq_error, exists_decodeJalr_eq_error, exists_decodeBranch_eq_error,
    exists_decodeLoad_eq_error, exists_decodeStore_eq_error]
  rfl

theorem illegalWord_iff : IllegalWord w ↔ ∃ why, decodeWord w = .error why := by
  rw [illegalWord_iff_decoders]
  unfold decodeWord OPC_LUI OPC_AUIPC OPC_JAL OPC_JALR OPC_OP OPC_OP_IMM OPC_BRANCH OPC_LOAD OPC_STORE
  split_ifs <;> simp [*]

end Illegal

/-- Settles O4: the classes are the failures of the decoders of the nine opcodes, and a word of none of the nine. -/
theorem illegalWordsExactly : Obligations.IllegalWordsExactly := by
  refine ⟨fun _ => illegalWord_iff, fun s hfetches hillegal => ?_⟩
  obtain ⟨why, hdecode⟩ := illegalWord_iff.1 hillegal
  exact step_of_illegal hfetches hdecode

end Sys2Proof.Machine

namespace Sys2Proof

/-! # The line of an instruction assembles to it (30_encoding.md R51, R53) -/

/-! ## Every value of a field is a legal operand (R53) -/

@[simp] theorem asmReg_toNat (r : Reg) : asmReg r.toNat = some r := by
  simp [asmReg, r.isLt]

@[simp] theorem asmUnsigned_toNat {w : Nat} (x : BitVec w) : asmUnsigned w x.toNat = some x := by
  have hlt : (x.toNat : Int) < 2 ^ w := by exact_mod_cast x.isLt
  simp [asmUnsigned, hlt]

@[simp] theorem asmSigned12_toInt (x : BitVec 12) : asmSigned12 x.toInt = some x := by
  have hle := BitVec.le_toInt x
  have hlt := BitVec.toInt_lt (x := x)
  rw [asmSigned12, if_pos (by omega), BitVec.ofInt_toInt]

/-- A field whose bit 0 is zero holds an even number. -/
theorem toInt_even {w : Nat} {x : BitVec (w + 1)} (h : x.getLsbD 0 = false) : x.toInt % 2 = 0 := by
  have heven : x.toNat % 2 = 0 := by simpa [BitVec.getLsbD, Nat.testBit_zero] using h
  have hpow : (2 ^ (w + 1) : Nat) = 2 * 2 ^ w := Nat.pow_succ'
  rw [BitVec.toInt_eq_toNat_cond]
  split_ifs <;> omega

theorem asmBranchOffset_toInt {x : BitVec 13} (h : branchOffsetOk x = true) : asmBranchOffset x.toInt = some x := by
  have hle := BitVec.le_toInt x
  have hlt := BitVec.toInt_lt (x := x)
  have heven := toInt_even (x := x) (by simpa [branchOffsetOk] using h)
  rw [asmBranchOffset, if_pos (by omega), BitVec.ofInt_toInt]

theorem asmJumpOffset_toInt {x : BitVec 21} (h : jumpOffsetOk x = true) : asmJumpOffset x.toInt = some x := by
  have hle := BitVec.le_toInt x
  have hlt := BitVec.toInt_lt (x := x)
  have heven := toInt_even (x := x) (by simpa [jumpOffsetOk] using h)
  rw [asmJumpOffset, if_pos (by omega), BitVec.ofInt_toInt]

/-! ## The line of each form (R51) -/

section Forms

variable {op : String}

theorem assemble_lineU {i : Reg → BitVec 20 → Instr} (hop : op ≠ "jal") (h : asmFormU.lookup op = some i) (rd : Reg)
    (imm : BitVec 20) : assemble ⟨op, [asmOfReg rd, .num imm.toNat]⟩ = some (i rd imm) := by
  simp [assemble, asmOfReg, hop, h]

theorem assemble_lineR {i : Reg → Reg → Reg → Instr} (h : asmFormR.lookup op = some i) (rd rs1 rs2 : Reg) :
    assemble (asmLineR op rd rs1 rs2) = some (i rd rs1 rs2) := by
  simp [assemble, asmLineR, asmOfReg, h]

theorem assemble_lineI {i : Reg → Reg → BitVec 12 → Instr} (h : asmFormI.lookup op = some i) (rd rs1 : Reg)
    (imm : BitVec 12) : assemble (asmLineN op rd rs1 imm.toInt) = some (i rd rs1 imm) := by
  simp [assemble, asmLineN, asmOfReg, h]

theorem assemble_lineShift {i : Reg → Reg → BitVec 5 → Instr} (hI : asmFormI.lookup op = none)
    (h : asmFormShift.lookup op = some i) (rd rs1 : Reg) (shamt : BitVec 5) :
    assemble (asmLineN op rd rs1 shamt.toNat) = some (i rd rs1 shamt) := by
  simp [assemble, asmLineN, asmOfReg, hI, h]

theorem assemble_lineBranch {i : Reg → Reg → BitVec 13 → Instr} (hI : asmFormI.lookup op = none)
    (hShift : asmFormShift.lookup op = none) (h : asmFormBranch.lookup op = some i) (rs1 rs2 : Reg) {offset : BitVec 13}
    (hok : branchOffsetOk offset = true) :
    assemble (asmLineN op rs1 rs2 offset.toInt) = some (i rs1 rs2 offset) := by
  simp [assemble, asmLineN, asmOfReg, hI, hShift, h, asmBranchOffset_toInt hok]

theorem assemble_lineM {i : Reg → Reg → BitVec 12 → Instr} (h : asmFormMem.lookup op = some i) (r rs1 : Reg)
    (offset : BitVec 12) : assemble (asmLineM op r rs1 offset) = some (i r rs1 offset) := by
  simp [assemble, asmLineM, asmOfReg, h]

theorem assemble_lineJal (rd : Reg) {offset : BitVec 21} (hok : jumpOffsetOk offset = true) :
    assemble ⟨"jal", [asmOfReg rd, .num offset.toInt]⟩ = some (.jal rd offset) := by
  simp [assemble, asmOfReg, asmJumpOffset_toInt hok]

end Forms

/-- Settles O7: by the form of the instruction, in which its mnemonic is listed. -/
theorem disassembleThenAssemble : Obligations.DisassembleThenAssemble := by
  intro i h
  cases i
  case lui | auipc => exact assemble_lineU (by decide) rfl ..
  case add | sub | mul | mulh | mulhsu | mulhu | div | divu | rem | remu | xor | or | and | sll | srl | sra | slt | sltu =>
    exact assemble_lineR rfl ..
  case addi | xori | ori | andi | slti | sltiu => exact assemble_lineI rfl ..
  case slli | srli | srai => exact assemble_lineShift rfl rfl ..
  case beq | bne | blt | bge | bltu | bgeu => exact assemble_lineBranch rfl rfl rfl _ _ h
  case jal => exact assemble_lineJal _ h
  case jalr | lb | lh | lbu | lhu | lw | sb | sh | sw => exact assemble_lineM rfl ..

end Sys2Proof

namespace Sys2Proof.Machine

/-! # Constants: LUI and AUIPC (40_load_constant.md), and words of the spec's examples -/

/-- The decoder follows the encoder on one word (30_encoding.md R46). -/
theorem decodeWord_of_encode_eq {i : Instr} {w : Word} (hw : encode i = w) (hok : i.wellFormed = true) :
    decodeWord w = .ok i :=
  hw ▸ decodeWord_encode hok

theorem wordsU_lui : WordsU OPC_LUI .lui := fun _ _ => decodeWord_of_encode_eq rfl rfl

theorem wordsU_auipc : WordsU OPC_AUIPC .auipc := fun _ _ => decodeWord_of_encode_eq rfl rfl

/-- Twelve zeros below the 20 bits are a multiplication by 4096 (R55). -/
theorem upperImm_toNat (imm : BitVec 20) : (upperImm imm).toNat = imm.toNat * 4096 := by
  rw [upperImm, BitVec.toNat_append, BitVec.toNat_ofNat, Nat.zero_mod, Nat.or_zero, Nat.shiftLeft_eq]

/-- The result of AUIPC is the exact sum modulo 2^32 (R56). -/
theorem add_upperImm_eq_to32 (pc : Word) (imm : BitVec 20) :
    pc + upperImm imm = to32 ((pc.toNat : Int) + (imm.toNat : Int) * 4096) := by
  have himm : (imm.toNat : Int) * 4096 = ((upperImm imm).toNat : Int) := by
    rw [upperImm_toNat, Nat.cast_mul]; rfl
  simp [himm, to32, BitVec.ofInt_add]

/-- Settles O24: the words are the encodings, and each instruction retires with its constant. -/
theorem loadConstant : Obligations.LoadConstant := by
  refine ⟨⟨wordsU_lui, fun rd imm s => ⟨_, rfl, retires_retire s rd (upperImm imm)⟩⟩,
    ⟨wordsU_auipc, fun rd imm s => ⟨_, rfl, ?_⟩⟩⟩
  rw [← add_upperImm_eq_to32]
  exact retires_retire s rd (s.pc + upperImm imm)

/-- Settles O6: each word is the encoding of its instruction, and the offsets of the JAL and the BEQ are even. -/
theorem wordsOfTheSpecDecode : Obligations.WordsOfTheSpecDecode := by
  refine ⟨?_, ?_, ?_, ?_, ?_, ?_, ?_, ?_, ?_⟩ <;> exact decodeWord_of_encode_eq rfl rfl

end Sys2Proof.Machine

namespace Sys2Proof

/-! # Arithmetic: ADD, ADDI, SUB, the multiplications and the divisions (41_arithmetic.md) -/

/-! ## `to32`: sums, differences and products may be reduced before or after (00_scope.md §5.2) -/

@[simp] theorem to32_toNat (a : Word) : to32 (a.toNat : Int) = a := by
  rw [to32, BitVec.ofInt_natCast, BitVec.ofNat_toNat, BitVec.setWidth_eq]

@[simp] theorem to32_toInt (a : Word) : to32 a.toInt = a := BitVec.ofInt_toInt

@[simp] theorem to32_add (m n : Int) : to32 (m + n) = to32 m + to32 n := BitVec.ofInt_add m n

@[simp] theorem to32_mul (m n : Int) : to32 (m * n) = to32 m * to32 n := BitVec.ofInt_mul m n

@[simp] theorem to32_sub (m n : Int) : to32 (m - n) = to32 m - to32 n := by
  rw [BitVec.eq_sub_iff_add_eq, ← to32_add, Int.sub_add_cancel]

/-- The low half of an integer of 64 bits. -/
theorem ofInt_extractLsb'_low (p : Int) : (BitVec.ofInt 64 p).extractLsb' 0 32 = to32 p := by
  apply BitVec.eq_of_toNat_eq
  simp only [to32, BitVec.extractLsb'_toNat, BitVec.toNat_ofInt, Nat.shiftRight_zero]
  omega

/-- The high half of an integer of 64 bits is its floor by 2^32, taken in 32 bits (R58). -/
theorem ofInt_extractLsb'_high (p : Int) : (BitVec.ofInt 64 p).extractLsb' 32 32 = to32 (p / 2 ^ 32) := by
  apply BitVec.eq_of_toNat_eq
  simp only [to32, BitVec.extractLsb'_toNat, BitVec.toNat_ofInt, Nat.shiftRight_eq_div_pow]
  omega

/-! ## What the ordinary law of a `DIVCFG` says of quotient and remainder (R59) -/

section Ordinary

variable {c : DivCfg} {a b : Word}

/-- Away from the overflow the exact signed quotient fits a word. -/
theorem toInt_to32_tdiv (ho : ¬(a = 0x80000000#32 ∧ b = 0xFFFFFFFF#32)) :
    (to32 (a.toInt.tdiv b.toInt)).toInt = a.toInt.tdiv b.toInt := by
  rw [← BitVec.toInt_sdiv_of_ne_or_ne a b (not_and_or.1 ho), to32_toInt]

theorem DivCfg.Ordinary.toInt_div (hc : c.Ordinary) (hb : b ≠ 0#32) (ho : ¬(a = 0x80000000#32 ∧ b = 0xFFFFFFFF#32)) :
    (c.div a b).toInt = a.toInt.tdiv b.toInt := by
  rw [(hc.1 a b hb ho).1, toInt_to32_tdiv ho]

theorem DivCfg.Ordinary.toInt_rem (hc : c.Ordinary) (hb : b ≠ 0#32) (ho : ¬(a = 0x80000000#32 ∧ b = 0xFFFFFFFF#32)) :
    (c.rem a b).toInt = a.toInt.tmod b.toInt := by
  rw [(hc.1 a b hb ho).2, ← Int.tmod_def, ← BitVec.toInt_srem, to32_toInt]

theorem DivCfg.Ordinary.toNat_divu (hc : c.Ordinary) (hb : b ≠ 0#32) : (c.divu a b).toNat = a.toNat / b.toNat := by
  rw [(hc.2 a b hb).1, ← BitVec.toNat_udiv, to32_toNat]

theorem DivCfg.Ordinary.toNat_remu (hc : c.Ordinary) (hb : b ≠ 0#32) : (c.remu a b).toNat = a.toNat % b.toNat := by
  rw [(hc.2 a b hb).2, Int.natCast_ediv, ← Int.emod_def, ← Int.natCast_emod, ← BitVec.toNat_umod, to32_toNat]

/-- The remainder of a division rounding toward zero is zero or has the sign of the dividend. -/
theorem tmod_eq_zero_or_neg_iff (m n : Int) : m.tmod n = 0 ∨ (m.tmod n < 0 ↔ m < 0) := by
  have hsign := Int.sign_tmod m n
  split at hsign
  · exact .inl (Int.sign_eq_zero_iff_zero.1 hsign)
  · exact .inr (by rw [← Int.sign_eq_neg_one_iff_neg, hsign, Int.sign_eq_neg_one_iff_neg])

theorem DivCfg.Ordinary.signed_law (hc : c.Ordinary) (hb : b ≠ 0#32) (ho : ¬(a = 0x80000000#32 ∧ b = 0xFFFFFFFF#32)) :
    a.toInt = b.toInt * (c.div a b).toInt + (c.rem a b).toInt ∧
    (c.rem a b).toInt.natAbs < b.toInt.natAbs ∧
    ((c.rem a b).toInt = 0 ∨ ((c.rem a b).toInt < 0 ↔ a.toInt < 0)) := by
  have hpos : 0 < b.toInt.natAbs := Int.natAbs_pos.2 fun h => hb (BitVec.toInt_inj.1 h)
  rw [hc.toInt_div hb ho, hc.toInt_rem hb ho]
  refine ⟨(Int.mul_tdiv_add_tmod _ _).symm, ?_, tmod_eq_zero_or_neg_iff _ _⟩
  rw [Int.natAbs_tmod]
  exact Nat.mod_lt _ hpos

theorem DivCfg.Ordinary.unsigned_law (hc : c.Ordinary) (hb : b ≠ 0#32) :
    a.toNat = b.toNat * (c.divu a b).toNat + (c.remu a b).toNat ∧ (c.remu a b).toNat < b.toNat := by
  have hpos : 0 < b.toNat := Nat.pos_of_ne_zero fun h => hb (BitVec.eq_of_toNat_eq h)
  rw [hc.toNat_divu hb, hc.toNat_remu hb]
  exact ⟨(Nat.div_add_mod _ _).symm, Nat.mod_lt _ hpos⟩

end Ordinary

end Sys2Proof

namespace Sys2Proof.Machine

/-! ## An instruction that retires with a function of its operands (R11) -/

theorem computesR_of_exec {i : Reg → Reg → Reg → Instr} {f : Word → Word → Word} {result : Word → Word → Word → Prop}
    (hexec : ∀ rd rs1 rs2 s, exec (i rd rs1 rs2) s = .next (s.retire rd (f (s.readReg rs1) (s.readReg rs2))))
    (hresult : ∀ a b, result a b (f a b)) : ComputesR i result :=
  fun rd rs1 rs2 s => ⟨_, _, hexec rd rs1 rs2 s, retires_retire s _ _, hresult _ _⟩

theorem computesI_of_exec {i : Reg → Reg → BitVec 12 → Instr} {f : Word → Word → Word}
    {result : Word → Word → Word → Prop}
    (hexec : ∀ rd rs1 imm s, exec (i rd rs1 imm) s = .next (s.retire rd (f (s.readReg rs1) (imm12 imm))))
    (hresult : ∀ a b, result a b (f a b)) : ComputesI i result :=
  fun rd rs1 imm s => ⟨_, _, hexec rd rs1 imm s, retires_retire s _ _, hresult _ _⟩

/-! ## The words of the eleven instructions (R60 to R70) -/

theorem wordsR_add : WordsR 0b0000000#7 0b000#3 OPC_OP .add := fun _ _ _ => decodeWord_of_encode_eq rfl rfl
theorem wordsI_addi : WordsI 0b000#3 OPC_OP_IMM .addi := fun _ _ _ => decodeWord_of_encode_eq rfl rfl
theorem wordsR_sub : WordsR 0b0100000#7 0b000#3 OPC_OP .sub := fun _ _ _ => decodeWord_of_encode_eq rfl rfl
theorem wordsR_mul : WordsR 0b0000001#7 0b000#3 OPC_OP .mul := fun _ _ _ => decodeWord_of_encode_eq rfl rfl
theorem wordsR_mulh : WordsR 0b0000001#7 0b001#3 OPC_OP .mulh := fun _ _ _ => decodeWord_of_encode_eq rfl rfl
theorem wordsR_mulhsu : WordsR 0b0000001#7 0b010#3 OPC_OP .mulhsu := fun _ _ _ => decodeWord_of_encode_eq rfl rfl
theorem wordsR_mulhu : WordsR 0b0000001#7 0b011#3 OPC_OP .mulhu := fun _ _ _ => decodeWord_of_encode_eq rfl rfl
theorem wordsR_div : WordsR 0b0000001#7 0b100#3 OPC_OP .div := fun _ _ _ => decodeWord_of_encode_eq rfl rfl
theorem wordsR_divu : WordsR 0b0000001#7 0b101#3 OPC_OP .divu := fun _ _ _ => decodeWord_of_encode_eq rfl rfl
theorem wordsR_rem : WordsR 0b0000001#7 0b110#3 OPC_OP .rem := fun _ _ _ => decodeWord_of_encode_eq rfl rfl
theorem wordsR_remu : WordsR 0b0000001#7 0b111#3 OPC_OP .remu := fun _ _ _ => decodeWord_of_encode_eq rfl rfl

/-! ## Sums and differences (R57) -/

theorem add_eq_to32 (a b : Word) : a + b = to32 ((a.toNat : Int) + b.toNat) ∧ a + b = to32 (a.toInt + b.toInt) := by
  constructor <;> simp only [to32_add, to32_toNat, to32_toInt]

theorem sub_eq_to32 (a b : Word) : a - b = to32 ((a.toNat : Int) - b.toNat) ∧ a - b = to32 (a.toInt - b.toInt) := by
  constructor <;> simp only [to32_sub, to32_toNat, to32_toInt]

/-- Settles O25: each word is the encoding, and the sum or difference of two words is that of either of their readings. -/
theorem addAndSubtract : Obligations.AddAndSubtract :=
  ⟨⟨wordsR_add, computesR_of_exec (fun _ _ _ _ => rfl) add_eq_to32⟩,
    ⟨wordsI_addi, computesI_of_exec (fun _ _ _ _ => rfl) add_eq_to32⟩,
    ⟨wordsR_sub, computesR_of_exec (fun _ _ _ _ => rfl) sub_eq_to32⟩⟩

/-! ## Products (R58) -/

/-- The upper half of a product is its floor by 2^32, and the same bits of its value in 64 bits. -/
theorem upperHalf_eq {p : Int} {x : BitVec 64} (hx : BitVec.ofInt 64 p = x) :
    upperHalf p = to32 (p / 2 ^ 32) ∧ upperHalf p = x.extractLsb' 32 32 := by
  have hfloor : upperHalf p = to32 (p / 2 ^ 32) := by rw [upperHalf, Int.fdiv_eq_ediv_of_nonneg p (by decide)]
  rw [← hx, ofInt_extractLsb'_high]
  exact ⟨hfloor, hfloor⟩

/-- The product of the factors extended to 64 bits by sign. -/
theorem ofInt_toInt_mul_toInt (a b : Word) : BitVec.ofInt 64 (a.toInt * b.toInt) = a.signExtend 64 * b.signExtend 64 :=
  BitVec.ofInt_mul _ _

theorem ofInt_toNat (b : Word) : BitVec.ofInt 64 (b.toNat : Int) = b.zeroExtend 64 := by
  rw [BitVec.ofInt_natCast, BitVec.ofNat_toNat]

theorem ofInt_toInt_mul_toNat (a b : Word) :
    BitVec.ofInt 64 (a.toInt * (b.toNat : Int)) = a.signExtend 64 * b.zeroExtend 64 := by
  rw [BitVec.ofInt_mul, ofInt_toNat, BitVec.signExtend]

theorem ofInt_toNat_mul_toNat (a b : Word) :
    BitVec.ofInt 64 ((a.toNat : Int) * b.toNat) = a.zeroExtend 64 * b.zeroExtend 64 := by
  rw [BitVec.ofInt_mul, ofInt_toNat, ofInt_toNat]

theorem mulLow_eq (a b : Word) : mulLow a b = to32 ((a.toNat : Int) * b.toNat) ∧ mulLow a b = to32 (a.toInt * b.toInt) ∧
    mulLow a b = (a.signExtend 64 * b.signExtend 64).extractLsb' 0 32 := by
  have hsigned : mulLow a b = to32 (a.toInt * b.toInt) := by
    simp only [mulLow, to32_mul, to32_toNat, to32_toInt]
  refine ⟨rfl, hsigned, ?_⟩
  rw [hsigned, ← ofInt_toInt_mul_toInt, ofInt_extractLsb'_low]

/-- Settles O26: each word is the encoding; the low half is the same for either reading, and the high half is the floor
that the upper bits of the 64-bit product make. -/
theorem multiply : Obligations.Multiply :=
  ⟨⟨wordsR_mul, computesR_of_exec (fun _ _ _ _ => rfl) mulLow_eq⟩,
    ⟨wordsR_mulh, computesR_of_exec (f := mulHighSigned) (fun _ _ _ _ => rfl) fun a b =>
      upperHalf_eq (ofInt_toInt_mul_toInt a b)⟩,
    ⟨wordsR_mulhsu, computesR_of_exec (f := mulHighSignedUnsigned) (fun _ _ _ _ => rfl) fun a b =>
      upperHalf_eq (ofInt_toInt_mul_toNat a b)⟩,
    ⟨wordsR_mulhu, computesR_of_exec (f := mulHighUnsigned) (fun _ _ _ _ => rfl) fun a b =>
      upperHalf_eq (ofInt_toNat_mul_toNat a b)⟩⟩

/-! ## The default record (R67 to R70) -/

theorem DividesBy.byDefault {i : Reg → Reg → Reg → Instr} {field : DivCfg → Word → Word → Word}
    {result : Word → Word → Word} (h : DividesBy i field) (hresult : ∀ a b, field divCfg a b = result a b) :
    DividesByDefault i result := by
  intro rd rs1 rs2 s hdefault
  rw [← hresult, ← hdefault]
  exact h rd rs1 rs2 s

/-- Settles O27: every division writes what its record gives, and the default record gives the pseudocode's results. -/
theorem divideAndRemainder : Obligations.DivideAndRemainder := by
  refine ⟨⟨wordsR_div, dividesBy_div.byDefault fun a b => ?_⟩, ⟨wordsR_divu, dividesBy_divu.byDefault fun a b => ?_⟩,
    ⟨wordsR_rem, dividesBy_rem.byDefault fun a b => ?_⟩, ⟨wordsR_remu, dividesBy_remu.byDefault fun a b => ?_⟩⟩
  · simp only [divCfg, quotientSigned, divOverflows_iff]
  · simp only [divCfg, quotientUnsigned, Int.natCast_ediv]
  · simp only [divCfg, remainderSigned, divOverflows_iff]
  · simp only [divCfg, remainderUnsigned, Int.natCast_ediv]

/-! ## Every `DIVCFG` (R59) -/

/-- The default results by zero (R59, second table). -/
theorem divCfg_byZero (a : Word) : divCfg.div a 0#32 = 0xFFFFFFFF#32 ∧ divCfg.rem a 0#32 = a ∧
    divCfg.divu a 0#32 = 0xFFFFFFFF#32 ∧ divCfg.remu a 0#32 = a :=
  ⟨rfl, rfl, rfl, rfl⟩

/-- Settles O28: the record of every state obeys the ordinary law, of which the identity, the size and the sign of the
remainder are consequences. -/
theorem divisionLaw : Obligations.DivisionLaw := by
  have hordinary (s : State) : s.division.Ordinary := DivOverrides.cfg_ordinary _
  exact ⟨⟨dividesBy_div, dividesBy_divu, dividesBy_rem, dividesBy_remu⟩, hordinary,
    fun s a b hb ho => (hordinary s).signed_law hb ho, fun s a b hb => (hordinary s).unsigned_law hb,
    divCfg_byZero, by decide, DivOverrides.default_cfg⟩

end Sys2Proof.Machine

namespace Sys2Proof.Machine

/-! # Boolean logic: XOR, XORI, OR, ORI, AND, ANDI (42_boolean_logic.md) -/

/-! ## The words of the six instructions (R71 to R76) -/

theorem wordsR_xor : WordsR 0b0000000#7 0b100#3 OPC_OP .xor := fun _ _ _ => decodeWord_of_encode_eq rfl rfl
theorem wordsI_xori : WordsI 0b100#3 OPC_OP_IMM .xori := fun _ _ _ => decodeWord_of_encode_eq rfl rfl
theorem wordsR_or : WordsR 0b0000000#7 0b110#3 OPC_OP .or := fun _ _ _ => decodeWord_of_encode_eq rfl rfl
theorem wordsI_ori : WordsI 0b110#3 OPC_OP_IMM .ori := fun _ _ _ => decodeWord_of_encode_eq rfl rfl
theorem wordsR_and : WordsR 0b0000000#7 0b111#3 OPC_OP .and := fun _ _ _ => decodeWord_of_encode_eq rfl rfl
theorem wordsI_andi : WordsI 0b111#3 OPC_OP_IMM .andi := fun _ _ _ => decodeWord_of_encode_eq rfl rfl

/-- Settles O30: each word is the encoding, and the library says what each bit of a bitwise operation is; an immediate
reaches the operation already sign-extended. -/
theorem booleanLogic : Obligations.BooleanLogic :=
  ⟨⟨wordsR_xor, computesR_of_exec (f := (· ^^^ ·)) (fun _ _ _ _ => rfl) fun _ _ _ _ => BitVec.getLsbD_xor⟩,
    ⟨wordsI_xori, computesI_of_exec (f := (· ^^^ ·)) (fun _ _ _ _ => rfl) fun _ _ _ _ => BitVec.getLsbD_xor⟩,
    ⟨wordsR_or, computesR_of_exec (f := (· ||| ·)) (fun _ _ _ _ => rfl) fun _ _ _ _ => BitVec.getLsbD_or⟩,
    ⟨wordsI_ori, computesI_of_exec (f := (· ||| ·)) (fun _ _ _ _ => rfl) fun _ _ _ _ => BitVec.getLsbD_or⟩,
    ⟨wordsR_and, computesR_of_exec (f := (· &&& ·)) (fun _ _ _ _ => rfl) fun _ _ _ _ => BitVec.getLsbD_and⟩,
    ⟨wordsI_andi, computesI_of_exec (f := (· &&& ·)) (fun _ _ _ _ => rfl) fun _ _ _ _ => BitVec.getLsbD_and⟩⟩

end Sys2Proof.Machine

namespace Sys2Proof.Machine

/-! # Shifts: SLL, SLLI, SRL, SRLI, SRA, SRAI (43_shifts.md) -/

/-! ## The words of the six instructions (R78 to R83) -/

theorem wordsR_sll : WordsR 0b0000000#7 0b001#3 OPC_OP .sll := fun _ _ _ => decodeWord_of_encode_eq rfl rfl
theorem wordsR_slli : WordsR 0b0000000#7 0b001#3 OPC_OP_IMM .slli := fun _ _ _ => decodeWord_of_encode_eq rfl rfl
theorem wordsR_srl : WordsR 0b0000000#7 0b101#3 OPC_OP .srl := fun _ _ _ => decodeWord_of_encode_eq rfl rfl
theorem wordsR_srli : WordsR 0b0000000#7 0b101#3 OPC_OP_IMM .srli := fun _ _ _ => decodeWord_of_encode_eq rfl rfl
theorem wordsR_sra : WordsR 0b0100000#7 0b101#3 OPC_OP .sra := fun _ _ _ => decodeWord_of_encode_eq rfl rfl
theorem wordsR_srai : WordsR 0b0100000#7 0b101#3 OPC_OP_IMM .srai := fun _ _ _ => decodeWord_of_encode_eq rfl rfl

/-! ## The shift amount (R77) -/

/-- Bits 31:5 of the register have no effect. -/
theorem regShamt_eq_mod (v : Word) : regShamt v = v.toNat % 32 := by
  rw [regShamt, BitVec.extractLsb'_toNat, Nat.shiftRight_zero]

theorem shiftsR_of_exec {i : Reg → Reg → Reg → Instr} {shift : Word → Nat → Word} {result : Word → Nat → Word → Prop}
    (hexec : ∀ rd rs1 rs2 s,
      exec (i rd rs1 rs2) s = .next (s.retire rd (shift (s.readReg rs1) (regShamt (s.readReg rs2)))))
    (hresult : ∀ a n, result a n (shift a n)) : ShiftsR i result :=
  computesR_of_exec hexec fun a b => regShamt_eq_mod b ▸ hresult a (regShamt b)

theorem shiftsI_of_exec {i : Reg → Reg → BitVec 5 → Instr} {shift : Word → Nat → Word}
    {result : Word → Nat → Word → Prop}
    (hexec : ∀ rd rs1 shamt s,
      exec (i rd rs1 shamt) s = .next (s.retire rd (shift (s.readReg rs1) (immShamt shamt))))
    (hresult : ∀ a n, result a n (shift a n)) : ShiftsI i result :=
  fun rd rs1 shamt s => ⟨_, _, hexec rd rs1 shamt s, retires_retire s _ _, hresult _ _⟩

/-! ## The shifted value, as a number and bit by bit (R77) -/

theorem shiftLeft_eq_to32 (a : Word) (n : Nat) : shiftLeft a n = to32 ((a.toNat : Int) * 2 ^ n) := by
  apply BitVec.eq_of_toNat_eq
  rw [shiftLeft, BitVec.toNat_shiftLeft, Nat.shiftLeft_eq, to32, ← BitVec.toNat_ofNat, ← BitVec.ofInt_natCast]
  norm_cast

theorem shiftedLeft_shiftLeft (a : Word) (n : Nat) : ShiftedLeft a n (shiftLeft a n) := by
  refine ⟨shiftLeft_eq_to32 a n, fun k hk => ?_⟩
  simp only [shiftLeft, BitVec.getLsbD_shiftLeft, hk, decide_true, Bool.true_and, ← decide_not, Nat.not_lt]

theorem shiftedRight_shiftRightLogical (a : Word) (n : Nat) : ShiftedRight a n (shiftRightLogical a n) := by
  refine ⟨?_, fun k _ => ?_⟩
  · rw [shiftRightLogical, BitVec.toNat_ushiftRight, Nat.shiftRight_eq_div_pow]
  · rw [shiftRightLogical, BitVec.getLsbD_ushiftRight, Nat.add_comm n k]
    by_cases hin : k + n ≤ 31
    · simp [hin]
    · rw [BitVec.getLsbD_of_ge a _ (by omega), Bool.and_false]

theorem shiftedRightSigned_shiftRightArithmetic (a : Word) (n : Nat) :
    ShiftedRightSigned a n (shiftRightArithmetic a n) := by
  refine ⟨?_, fun k hk => ?_⟩
  · rw [shiftRightArithmetic, BitVec.sshiftRight, Int.shiftRight_eq_div_pow, to32, Int.natCast_pow, Nat.cast_ofNat]
  · have hfill : a.msb = a.getLsbD 31 := BitVec.msb_eq_getLsbD_last a
    simp only [shiftRightArithmetic, BitVec.getLsbD_sshiftRight, hfill, Nat.add_comm n k, Nat.not_le.mpr hk, decide_false,
      Bool.not_false, Bool.true_and, Nat.lt_succ_iff]

/-- Settles O31: each word is the encoding, the amount of a register is its value modulo 32, and the three shifts, by any
amount at all, have the value and the bits of R77. -/
theorem shifts : Obligations.Shifts :=
  ⟨⟨wordsR_sll, shiftsR_of_exec (fun _ _ _ _ => rfl) shiftedLeft_shiftLeft⟩,
    ⟨wordsR_slli, shiftsI_of_exec (fun _ _ _ _ => rfl) shiftedLeft_shiftLeft⟩,
    ⟨wordsR_srl, shiftsR_of_exec (fun _ _ _ _ => rfl) shiftedRight_shiftRightLogical⟩,
    ⟨wordsR_srli, shiftsI_of_exec (fun _ _ _ _ => rfl) shiftedRight_shiftRightLogical⟩,
    ⟨wordsR_sra, shiftsR_of_exec (fun _ _ _ _ => rfl) shiftedRightSigned_shiftRightArithmetic⟩,
    ⟨wordsR_srai, shiftsI_of_exec (fun _ _ _ _ => rfl) shiftedRightSigned_shiftRightArithmetic⟩⟩

end Sys2Proof.Machine

namespace Sys2Proof.Machine

/-! # Compare: SLT, SLTI, SLTIU, SLTU (44_compare.md) -/

/-! ## The words of the four instructions (R84 to R87) -/

theorem wordsR_slt : WordsR 0b0000000#7 0b010#3 OPC_OP .slt := fun _ _ _ => decodeWord_of_encode_eq rfl rfl
theorem wordsI_slti : WordsI 0b010#3 OPC_OP_IMM .slti := fun _ _ _ => decodeWord_of_encode_eq rfl rfl
theorem wordsI_sltiu : WordsI 0b011#3 OPC_OP_IMM .sltiu := fun _ _ _ => decodeWord_of_encode_eq rfl rfl
theorem wordsR_sltu : WordsR 0b0000000#7 0b011#3 OPC_OP .sltu := fun _ _ _ => decodeWord_of_encode_eq rfl rfl

/-! ## The two comparisons, and the word they write -/

theorem lessSigned_iff {a b : Word} : lessSigned a b = true ↔ a.toInt < b.toInt := BitVec.slt_iff_toInt_lt

theorem lessUnsigned_iff {a b : Word} : lessUnsigned a b = true ↔ a.toNat < b.toNat := BitVec.ult_iff_lt

theorem flagWord_lessSigned (a b : Word) :
    flagWord (lessSigned a b) = if a.toInt < b.toInt then 0x00000001#32 else 0x00000000#32 := by
  simp only [flagWord, lessSigned_iff]

theorem flagWord_lessUnsigned (a b : Word) :
    flagWord (lessUnsigned a b) = if a.toNat < b.toNat then 0x00000001#32 else 0x00000000#32 := by
  simp only [flagWord, lessUnsigned_iff]

/-- Settles O32: each word is the encoding, and the word written is that of the signed or the unsigned comparison; an
immediate reaches either comparison already sign-extended. -/
theorem compare : Obligations.Compare :=
  ⟨⟨wordsR_slt, computesR_of_exec (fun _ _ _ _ => rfl) flagWord_lessSigned⟩,
    ⟨wordsI_slti, computesI_of_exec (fun _ _ _ _ => rfl) flagWord_lessSigned⟩,
    ⟨wordsI_sltiu, computesI_of_exec (fun _ _ _ _ => rfl) flagWord_lessUnsigned⟩,
    ⟨wordsR_sltu, computesR_of_exec (fun _ _ _ _ => rfl) flagWord_lessUnsigned⟩⟩

end Sys2Proof.Machine

namespace Sys2Proof.Machine

/-! # Unconditional jumps: JAL, JALR, and where a transfer leads (45_unconditional_jumps.md) -/

/-! ## The words of the two instructions (R89, R90) -/

/-- The columns of format J, cut from the offset that they make, are the columns again (30_encoding.md R44). -/
theorem encodeJ_append (rd : Reg) (op : BitVec 7) (o20 o11 : BitVec 1) (o10_1 : BitVec 10) (o19_12 : BitVec 8) :
    encodeJ (o20 ++ o19_12 ++ o11 ++ o10_1 ++ 0#1) rd op = o20 ++ o10_1 ++ o11 ++ o19_12 ++ rd ++ op := by
  rw [encodeJ]
  ext i hi
  simp only [BitVec.getElem_append, BitVec.getElem_extractLsb', BitVec.getLsbD_append]
  interval_cases i <;> simp

theorem wordsJ_jal : WordsJ .jal := by
  intro rd o20 o11 o10_1 o19_12
  refine decodeWord_of_encode_eq (encodeJ_append rd OPC_JAL o20 o11 o10_1 o19_12) ?_
  rw [Instr.wellFormed, jumpOffsetOk, BitVec.getLsbD_append]
  rfl

theorem wordsI_jalr : WordsI 0b000#3 OPC_JALR .jalr := fun _ _ _ => decodeWord_of_encode_eq rfl rfl

/-! ## An instruction that takes its transfer (R88; 46_conditional_branches.md R91) -/

section Transfer

variable {s : State} {i : Instr} {target : Word} (htarget : transferTarget s i = some target) (hholds : branchHolds s i)

include htarget hholds

/-- A transfer to a multiple of 4 completes, wherever the target lies: the link goes to the destination, or to x0, which
discards it, where a branch has none, and the pc to the target. -/
theorem exec_of_transfer (h : target.toNat % 4 = 0) :
    exec i s = .next ((s.writeReg (i.dest.getD 0#5) (s.pc + 4#32)).setPc target) := by
  rw [← shapeOf_target] at htarget
  rw [← shapeOf_taken] at hholds
  have hdest := shapeOf_hasResult s i
  have hm := (misaligned_eq_false target 4).2 h
  rw [exec_eq_run]
  generalize shapeOf s i = shape at htarget hholds hdest ⊢
  cases shape with
  | jump _ => cases htarget; simp [Shape.run, State.jump, hm]
  | branch _ _ =>
    have hnone : i.dest = none := by simpa [Shape.hasResult] using hdest.symm
    cases htarget; cases hholds
    simp [Shape.run, State.branch, hm, hnone]
  | compute _ | load _ _ _ | store _ _ _ => cases htarget

/-- A transfer to another address raises, and nothing else changes. -/
theorem exec_of_misaligned_transfer (h : target.toNat % 4 ≠ 0) :
    exec i s = .next (faultedAt s .instructionAddressMisaligned target) := by
  rw [exec_eq_run]
  exact Shape.run_of_misaligned ((shapeOf_target s i).trans htarget) ((shapeOf_taken s i).2 hholds) h _

/-- A transfer to a multiple of 4 changes the destination and the pc alone. -/
theorem becomes_of_transfer {rd : Reg} (hdest : i.dest = some rd) (h : target.toNat % 4 = 0) :
    ∃ t, exec i s = .next t ∧ Becomes s t (withReg s rd (s.pc + 4#32)) target := by
  refine ⟨_, exec_of_transfer htarget hholds h, ?_⟩
  simp [hdest, Becomes, withReg, State.readReg_writeReg]

end Transfer

/-- Settles O33: both are transfers whose condition always holds, to the target that the statement names; the target of JALR
is made of the state before the link is written. -/
theorem jumps : Obligations.Jumps :=
  ⟨⟨wordsJ_jal,
      fun rd offset _ _ e h => becomes_of_transfer (i := .jal rd offset) (congrArg some e.symm) trivial rfl h,
      fun rd offset _ _ e h => exec_of_misaligned_transfer (i := .jal rd offset) (congrArg some e.symm) trivial h⟩,
    wordsI_jalr,
      fun rd rs1 offset _ _ e h => becomes_of_transfer (i := .jalr rd rs1 offset) (congrArg some e.symm) trivial rfl h,
      fun rd rs1 offset _ _ e h => exec_of_misaligned_transfer (i := .jalr rd rs1 offset) (congrArg some e.symm) trivial h⟩

/-! ## A transfer out of `CODE` (20_memory.md R24; 60_exceptions.md R112) -/

theorem not_codeAtPc_of_outsideCode {s : State} (h : s.env.inCode s.pc.toNat = false) : ¬codeAtPc s := by
  intro hcode
  have hmem : s.pc.toNat ∈ accessAddresses s.pc 4 := (mem_accessAddresses s.pc 4 _).2 ⟨0, by decide, by simp⟩
  simp [hcode _ hmem] at h

/-- The step where the run goes on and the word at the pc is not all in `CODE`. -/
theorem step_of_not_codeAtPc {s : State} (hrun : s.outcome = .running) (hend : s.pc ≠ s.env.endPc)
    (hcode : ¬codeAtPc s) : step s = .next (faultedAt s .instructionAccessFault s.pc) := by
  rcases step_cases s with ⟨hstop, -⟩ | ⟨-, hpc, -⟩ | ⟨-, -, -, e⟩ | ⟨⟨-, -, hin⟩, -⟩ | ⟨⟨-, -, hin⟩, -⟩
  · exact absurd hrun hstop
  · exact absurd hpc hend
  · exact e
  · exact absurd hin hcode
  · exact absurd hin hcode

/-- Settles O34: the transfer completes whatever the address map says of its target, so the fetch of the next step is the
first to look there. -/
theorem transferOutOfCode : Obligations.TransferOutOfCode := by
  intro s i target hexecutes htarget hholds h hcode hend
  have ⟨⟨hrun, _, _⟩, _⟩ := hexecutes
  refine ⟨_, (step_of_executes hexecutes).trans (exec_of_transfer htarget hholds h), rfl, fun rd hdest hrd => ?_, ?_⟩
  · simp [hdest, State.readReg_writeReg, hrd]
  · refine step_of_not_codeAtPc ?_ ?_ (not_codeAtPc_of_outsideCode ?_) <;> simpa

/-! ## A jump to itself (70_reset_and_hazards.md R130) -/

/-- A run stays for any number of steps at a state whose step answers the state itself. -/
theorem run_of_step_self {M : Host.Core} {s : M.State} (h : M.step s = .next s) (k : Nat) : M.run k s = .next s := by
  induction k with
  | zero => rfl
  | succ k ih => exact run_succ_eq_next.2 ⟨s, h, ih⟩

/-- JAL x0, 0 at a multiple of 4 answers the state itself. -/
theorem exec_jal_x0_zero {s : State} (h : s.pc.toNat % 4 = 0) : exec (.jal 0#5 0#21) s = .next s := by
  have htarget : transferTarget s (.jal 0#5 0#21) = some s.pc := by simp [transferTarget, jalTarget, jumpImm]
  exact exec_of_transfer htarget trivial h

/-- Settles O46, a run from a state that steps to itself: the word is JAL x0, 0, which answers the state itself. -/
theorem jumpToItselfRunsForEver : Obligations.JumpToItselfRunsForEver := by
  intro s k haligned hfetches hword
  have hdecode : decodeWord (wordAtPc s) = .ok (.jal 0#5 0#21) := hword ▸ rfl
  have hstep : step s = .next s := (step_of_executes ⟨hfetches, hdecode⟩).trans (exec_jal_x0_zero haligned)
  exact run_of_step_self (M := Sys2Proof.core) hstep k

end Sys2Proof.Machine

namespace Sys2Proof.Machine

/-! # Conditional branches: BEQ, BNE, BLT, BGE, BLTU, BGEU (46_conditional_branches.md) -/

/-! ## The words of the six instructions (R91) -/

/-- The columns of format B, cut from the offset that they make, are the columns again (30_encoding.md R42). -/
theorem encodeB_append (rs2 rs1 : Reg) (f3 : BitVec 3) (op : BitVec 7) (o12 o11 : BitVec 1) (o10_5 : BitVec 6)
    (o4_1 : BitVec 4) :
    encodeB (o12 ++ o11 ++ o10_5 ++ o4_1 ++ 0#1) rs2 rs1 f3 op =
      o12 ++ o10_5 ++ rs2 ++ rs1 ++ f3 ++ o4_1 ++ o11 ++ op := by
  rw [encodeB]
  ext i hi
  simp only [BitVec.getElem_append, BitVec.getElem_extractLsb', BitVec.getLsbD_append]
  interval_cases i <;> simp

/-- The words of an instruction that is encoded in format B, and is well-formed where its offset is even. -/
theorem wordsB_of_encode {f3 : BitVec 3} {i : Reg → Reg → BitVec 13 → Instr}
    (hencode : ∀ rs1 rs2 offset, encode (i rs1 rs2 offset) = encodeB offset rs2 rs1 f3 OPC_BRANCH)
    (hok : ∀ rs1 rs2 offset, (i rs1 rs2 offset).wellFormed = branchOffsetOk offset) : WordsB f3 i := by
  intro rs1 rs2 o12 o11 o10_5 o4_1
  refine decodeWord_of_encode_eq ((hencode rs1 rs2 _).trans (encodeB_append rs2 rs1 f3 _ o12 o11 o10_5 o4_1)) ?_
  rw [hok, branchOffsetOk, BitVec.getLsbD_append]
  rfl

theorem wordsB_beq : WordsB 0b000#3 .beq := wordsB_of_encode (fun _ _ _ => rfl) fun _ _ _ => rfl
theorem wordsB_bne : WordsB 0b001#3 .bne := wordsB_of_encode (fun _ _ _ => rfl) fun _ _ _ => rfl
theorem wordsB_blt : WordsB 0b100#3 .blt := wordsB_of_encode (fun _ _ _ => rfl) fun _ _ _ => rfl
theorem wordsB_bge : WordsB 0b101#3 .bge := wordsB_of_encode (fun _ _ _ => rfl) fun _ _ _ => rfl
theorem wordsB_bltu : WordsB 0b110#3 .bltu := wordsB_of_encode (fun _ _ _ => rfl) fun _ _ _ => rfl
theorem wordsB_bgeu : WordsB 0b111#3 .bgeu := wordsB_of_encode (fun _ _ _ => rfl) fun _ _ _ => rfl

/-! ## Taken and not taken (R91) -/

/-- An instruction whose condition does not hold, which only a branch can be, goes on to the next one; its target is not
looked at. -/
theorem exec_of_not_branchHolds {s : State} {i : Instr} (h : ¬branchHolds s i) : exec i s = .next s.advance := by
  rw [← shapeOf_taken, Bool.not_eq_true] at h
  rw [exec_eq_run]
  generalize shapeOf s i = shape at h ⊢
  cases shape with
  | branch _ _ => cases h; rfl
  | compute _ | load _ _ _ | store _ _ _ | jump _ => cases h

/-- An instruction without a destination that takes a transfer to a multiple of 4 changes the pc alone. -/
theorem becomes_of_transfer_of_noDest {s : State} {i : Instr} {target : Word} (hdest : i.dest = none)
    (htarget : transferTarget s i = some target) (hholds : branchHolds s i) (h : target.toNat % 4 = 0) :
    ∃ t, exec i s = .next t ∧ Becomes s t s.readReg target := by
  refine ⟨_, exec_of_transfer htarget hholds h, ?_⟩
  simp [hdest, Becomes]

/-- A branch to `pc + offset` on a condition: the transfer of R88 where the condition holds, and else the next
instruction. -/
theorem branches_of_branchHolds {i : Reg → Reg → BitVec 13 → Instr} {cond : Word → Word → Prop}
    (hdest : ∀ rs1 rs2 offset, (i rs1 rs2 offset).dest = none)
    (htarget : ∀ rs1 rs2 offset s, transferTarget s (i rs1 rs2 offset) = some (s.pc + offset.signExtend 32))
    (hcond : ∀ rs1 rs2 offset s, branchHolds s (i rs1 rs2 offset) ↔ cond (s.readReg rs1) (s.readReg rs2)) :
    Branches i cond := by
  refine ⟨fun rs1 rs2 offset s hc h => ?taken, fun rs1 rs2 offset s hc => ?notTaken,
    fun rs1 rs2 offset s hc h => ?misaligned⟩
  case taken =>
    exact becomes_of_transfer_of_noDest (hdest ..) (htarget ..) ((hcond ..).2 hc) h
  case notTaken =>
    exact ⟨s.advance, exec_of_not_branchHolds (mt (hcond ..).1 hc), fun _ => rfl, rfl, fun _ => rfl, rfl, rfl⟩
  case misaligned =>
    exact exec_of_misaligned_transfer (htarget ..) ((hcond ..).2 hc) h

/-- Settles O35: each word is the encoding, and each instruction is the branch of R91 on its own condition, which
`shapeOf_taken` ties to the comparison that the model evaluates. -/
theorem conditionalBranches : Obligations.ConditionalBranches := by
  refine ⟨⟨wordsB_beq, ?_⟩, ⟨wordsB_bne, ?_⟩, ⟨wordsB_blt, ?_⟩, ⟨wordsB_bge, ?_⟩, ⟨wordsB_bltu, ?_⟩, ⟨wordsB_bgeu, ?_⟩⟩ <;>
    exact branches_of_branchHolds (fun _ _ _ => rfl) (fun _ _ _ _ => rfl) fun _ _ _ _ => Iff.rfl

end Sys2Proof.Machine

namespace Sys2Proof.Machine

/-! # Exceptions, refusals and the end of a run (60_exceptions.md; 70_reset_and_hazards.md) -/

/-! ## The loads and stores that an address stops (R113 to R115) -/

section Access

variable {s : State} {i : Instr} {addr : Word} (haddr : dataAddress s i = some addr)
include haddr

theorem exec_of_load_outsideMem (hn : i.loadBytes ≠ 0) (halign : addr.toNat % i.loadBytes = 0)
    (hmem : ¬BytesInMem s addr i.loadBytes) : exec i s = .next (faultedAt s .loadAccessFault addr) := by
  obtain ⟨extend, hshape⟩ := shapeOf_of_loadBytes haddr hn
  rw [exec_eq_run, hshape]
  exact State.load_of_outsideMem halign hmem

theorem exec_of_store_outsideMem (hn : i.storeBytes ≠ 0) (halign : addr.toNat % i.storeBytes = 0)
    (hmem : ¬BytesInMem s addr i.storeBytes) : exec i s = .next (faultedAt s .storeAccessFault addr) := by
  obtain ⟨v, hshape⟩ := shapeOf_of_storeBytes haddr hn
  rw [exec_eq_run, hshape]
  exact State.store_of_outsideMem halign hmem

theorem exec_of_store_inCode (hn : i.storeBytes ≠ 0) (halign : addr.toNat % i.storeBytes = 0)
    (hmem : BytesInMem s addr i.storeBytes) (hcode : ¬BytesOutsideCode s addr i.storeBytes) :
    exec i s = .next (refusedAt s) := by
  obtain ⟨v, hshape⟩ := shapeOf_of_storeBytes haddr hn
  rw [exec_eq_run, hshape]
  exact State.store_of_inCode halign hmem hcode

end Access

theorem not_bytesInMem_of_lt {s : State} {addr : Word} {n k : Nat} (hk : k < n)
    (h : s.env.inMem (addr + BitVec.ofNat 32 k).toNat = false) : ¬BytesInMem s addr n :=
  fun hmem => Bool.false_ne_true (h.symm.trans (hmem k hk))

/-- Settles O41: one byte outside `MEM`, whichever it is, and the access is not inside `MEM`. -/
theorem accessOutsideMem : Obligations.AccessOutsideMem := by
  refine ⟨fun s i addr k haddr hk halign hout => ?load, fun s i addr k haddr hk halign hout => ?store⟩
  case load => exact exec_of_load_outsideMem haddr (Nat.ne_zero_of_lt hk) halign (not_bytesInMem_of_lt hk hout)
  case store => exact exec_of_store_outsideMem haddr (Nat.ne_zero_of_lt hk) halign (not_bytesInMem_of_lt hk hout)

/-! ## What the table of R109 raises is what a step raises -/

/-- Each row of the table, by its phase (R115): the fetch, the decode, and the instruction at its target or its address. -/
theorem step_of_raisedWhen {s : State} (hs : s.outcome = .running) {cause : Cause} {info : Word}
    (h : RaisedWhen s cause info) : step s = .next (faultedAt s cause info) := by
  cases cause with
  | instructionAccessFault =>
    obtain ⟨hend, hcode, rfl⟩ := h
    exact step_of_not_codeAtPc hs hend hcode
  | illegalInstruction =>
    obtain ⟨hfetches, hrows, rfl⟩ := h
    exact step_of_no_row hfetches hrows
  | instructionAddressMisaligned =>
    obtain ⟨i, hexecutes, htarget, hholds, hmis⟩ := h
    exact (step_of_executes hexecutes).trans (exec_of_misaligned_transfer htarget hholds hmis)
  | loadAddressMisaligned =>
    obtain ⟨i, hexecutes, haddr, hn, hmis⟩ := h
    obtain ⟨hload, -⟩ := dataAlignment
    exact (step_of_executes hexecutes).trans (hload s i info haddr hn hmis)
  | loadAccessFault =>
    obtain ⟨i, hexecutes, haddr, hn, halign, hmem⟩ := h
    exact (step_of_executes hexecutes).trans (exec_of_load_outsideMem haddr hn halign hmem)
  | storeAddressMisaligned =>
    obtain ⟨i, hexecutes, haddr, hn, hmis⟩ := h
    obtain ⟨-, hstore, -⟩ := dataAlignment
    exact (step_of_executes hexecutes).trans (hstore s i info haddr hn hmis)
  | storeAccessFault =>
    obtain ⟨i, hexecutes, haddr, hn, halign, hmem⟩ := h
    exact (step_of_executes hexecutes).trans (exec_of_store_outsideMem haddr hn halign hmem)

theorem step_of_refusedWhen {s : State} (h : RefusedWhen s) : step s = .next (refusedAt s) := by
  obtain ⟨i, addr, hexecutes, haddr, hn, halign, hmem, hcode⟩ := h
  exact (step_of_executes hexecutes).trans (exec_of_store_inCode haddr hn halign hmem hcode)

theorem step_of_endPc {s : State} (hs : s.outcome = .running) (h : s.pc = s.env.endPc) :
    step s = .next { s with outcome := .ended } := by
  simp only [step, hs, h, if_true, State.finish]

/-! ## What a step raises is in the table of R109 -/

/-- Every load and store accesses at least one byte. -/
theorem ne_zero_of_mem_widths {n : Nat} (h : n ∈ [1, 2, 4]) : n ≠ 0 := by
  rintro rfl
  simp at h

/-- What the shape of the executed instruction raises is a row of the table. -/
theorem raisedWhen_of_raises {s : State} {i : Instr} (hexecutes : Executes s i) {cause : Cause} {info : Word}
    (h : (shapeOf s i).Raises s cause info) : RaisedWhen s cause info := by
  cases cause with
  | instructionAccessFault => exact h.elim
  | illegalInstruction => exact h.elim
  | instructionAddressMisaligned =>
    obtain ⟨htarget, htaken, hmis⟩ := h
    exact ⟨i, hexecutes, shapeOf_target s i ▸ htarget, (shapeOf_taken s i).1 htaken, hmis⟩
  | loadAddressMisaligned =>
    obtain ⟨n, extend, hshape, hmis⟩ := h
    obtain ⟨haddr, rfl, hn⟩ := dataAddress_of_shapeOf_load hshape
    exact ⟨i, hexecutes, haddr, ne_zero_of_mem_widths hn, hmis⟩
  | loadAccessFault =>
    obtain ⟨n, extend, hshape, halign, hmem⟩ := h
    obtain ⟨haddr, rfl, hn⟩ := dataAddress_of_shapeOf_load hshape
    exact ⟨i, hexecutes, haddr, ne_zero_of_mem_widths hn, halign, hmem⟩
  | storeAddressMisaligned =>
    obtain ⟨n, v, hshape, hmis⟩ := h
    obtain ⟨haddr, rfl, hn⟩ := dataAddress_of_shapeOf_store hshape
    exact ⟨i, hexecutes, haddr, ne_zero_of_mem_widths hn, hmis⟩
  | storeAccessFault =>
    obtain ⟨n, v, hshape, halign, hmem⟩ := h
    obtain ⟨haddr, rfl, hn⟩ := dataAddress_of_shapeOf_store hshape
    exact ⟨i, hexecutes, haddr, ne_zero_of_mem_widths hn, halign, hmem⟩

/-- The shape is an aligned store inside `MEM` that touches `CODE` (20_memory.md R23). -/
def Shape.Refuses (shape : Shape) (s : State) : Prop :=
  ∃ addr n v, shape = .store addr n v ∧ addr.toNat % n = 0 ∧ BytesInMem s addr n ∧ ¬BytesOutsideCode s addr n

/-- A shape that a running state answers with a refusal is such a store. -/
theorem Shape.refuses_of_run {shape : Shape} {rd : Reg} {s t : State} {reason : RefusedReason} {pc : Word}
    (hs : s.outcome = .running) (h : shape.run rd s = .next t) (ht : t.outcome = .refused reason pc) :
    shape.Refuses s := by
  cases shape with
  | compute v =>
    cases h
    simp [hs] at ht
  | load addr n extend =>
    rcases s.load_cases rd addr n extend with ⟨-, e⟩ | ⟨-, -, e⟩ | ⟨-, -, e⟩ <;> cases e.symm.trans h <;>
      simp [hs] at ht
  | store addr n v =>
    rcases s.store_cases addr n v with ⟨-, e⟩ | ⟨-, -, e⟩ | ⟨halign, hmem, hcode, -⟩ | ⟨-, -, -, e⟩
    · cases e.symm.trans h; cases ht
    · cases e.symm.trans h; cases ht
    · exact ⟨addr, n, v, rfl, halign, (bytesInMem_iff s addr n).2 hmem, (not_bytesOutsideCode_iff s addr n).2 hcode⟩
    · cases e.symm.trans h; simp [hs] at ht
  | jump target =>
    rcases s.jump_cases rd target with ⟨-, e⟩ | ⟨-, e⟩ <;> cases e.symm.trans h <;> simp [hs] at ht
  | branch taken target =>
    rcases s.branch_cases taken target with ⟨-, e⟩ | ⟨-, -, e⟩ | ⟨-, -, e⟩ <;> cases e.symm.trans h <;>
      simp [hs] at ht

theorem refusedWhen_of_refuses {s : State} {i : Instr} (hexecutes : Executes s i) (h : (shapeOf s i).Refuses s) :
    RefusedWhen s := by
  obtain ⟨addr, n, v, hshape, halign, hmem, hcode⟩ := h
  obtain ⟨haddr, rfl, hn⟩ := dataAddress_of_shapeOf_store hshape
  exact ⟨i, addr, hexecutes, haddr, ne_zero_of_mem_widths hn, halign, hmem, hcode⟩

/-- A word that is no instruction is of no row of the opcode table (30_encoding.md R46). -/
theorem fits_eq_false_of_decodeWord_eq_error {w : Word} {c : IllegalClass} (h : decodeWord w = .error c) :
    ∀ row ∈ opcodeTable, row.fits w = false := by
  refine fun row hrow => Bool.eq_false_iff.2 fun hfits => ?_
  obtain ⟨i, hi, -⟩ := decodeWord_of_fits hrow hfits
  cases h.symm.trans hi

/-- Every instruction that is executed goes on, raises as the table says, or is refused. -/
theorem exec_of_executes_cases {s : State} {i : Instr} (hexecutes : Executes s i) :
    (∃ t, exec i s = .next t ∧ t.outcome = .running) ∨
    (∃ cause info, RaisedWhen s cause info ∧ exec i s = .next (faultedAt s cause info)) ∨
    (RefusedWhen s ∧ exec i s = .next (refusedAt s)) := by
  have ⟨⟨hs, _, _⟩, _⟩ := hexecutes
  obtain ⟨t, ht, -⟩ := exec_keeps_env i s
  obtain ⟨-, -, -, hout⟩ := frameOfEveryInstruction i s t ht
  have hrun := (exec_eq_run i s).symm.trans ht
  rcases hout with hout | ⟨cause, info, rfl⟩ | rfl
  · exact .inl ⟨t, ht, hout.trans hs⟩
  · exact .inr (.inl ⟨cause, info, raisedWhen_of_raises hexecutes (Shape.raises_of_run hs hrun rfl), ht⟩)
  · exact .inr (.inr ⟨refusedWhen_of_refuses hexecutes (Shape.refuses_of_run hs hrun rfl), ht⟩)

/-- What a step of a running state can do: go on, end the run at `END_PC`, raise as the table says, or be refused. -/
theorem step_of_running_cases {s : State} (hs : s.outcome = .running) :
    (∃ t, step s = .next t ∧ t.outcome = .running) ∨
    (s.pc = s.env.endPc ∧ step s = .next { s with outcome := .ended }) ∨
    (∃ cause info, RaisedWhen s cause info ∧ step s = .next (faultedAt s cause info)) ∨
    (RefusedWhen s ∧ step s = .next (refusedAt s)) := by
  rcases step_cases s with ⟨hstop, -⟩ | ⟨-, hend, e⟩ | ⟨-, hend, hout, e⟩ | ⟨hfetches, ⟨c, hc⟩, e⟩ | ⟨hfetches, i, hi, e⟩
  · exact absurd hs hstop
  · exact .inr (.inl ⟨hend, e⟩)
  · have hcode : ¬codeAtPc s := fun hcode => by
      obtain ⟨a, ha, hout⟩ := hout
      simp [hcode a ha] at hout
    exact .inr (.inr (.inl ⟨.instructionAccessFault, s.pc, ⟨hend, hcode, rfl⟩, e⟩))
  · rw [s.peek_pc] at hc e
    have hrows := fits_eq_false_of_decodeWord_eq_error hc
    exact .inr (.inr (.inl ⟨.illegalInstruction, wordAtPc s, ⟨hfetches, hrows, rfl⟩, e⟩))
  · rw [s.peek_pc] at hi
    rw [e]
    exact (exec_of_executes_cases ⟨hfetches, hi⟩).imp_right .inr

/-! ## How a step stops a run -/

section Stop

variable {s t : State} (hs : s.outcome = .running) (h : step s = .next t)
include hs h

theorem raisedWhen_of_step {cause : Cause} {info pc : Word} (ht : t.outcome = .faulted cause info pc) :
    RaisedWhen s cause info := by
  rcases step_of_running_cases hs with ⟨u, e, hu⟩ | ⟨-, e⟩ | ⟨_, _, hraised, e⟩ | ⟨-, e⟩ <;> cases e.symm.trans h
  · cases hu.symm.trans ht
  · cases ht
  · cases ht; exact hraised
  · cases ht

theorem refusedWhen_of_step {reason : RefusedReason} {pc : Word} (ht : t.outcome = .refused reason pc) :
    RefusedWhen s := by
  rcases step_of_running_cases hs with ⟨u, e, hu⟩ | ⟨-, e⟩ | ⟨_, _, -, e⟩ | ⟨hrefused, -⟩
  · cases e.symm.trans h; cases hu.symm.trans ht
  · cases e.symm.trans h; cases ht
  · cases e.symm.trans h; cases ht
  · exact hrefused

theorem endPc_of_step (ht : t.outcome = .ended) : s.pc = s.env.endPc := by
  rcases step_of_running_cases hs with ⟨u, e, hu⟩ | ⟨hend, -⟩ | ⟨_, _, -, e⟩ | ⟨-, e⟩
  · cases e.symm.trans h; cases hu.symm.trans ht
  · exact hend
  · cases e.symm.trans h; cases ht
  · cases e.symm.trans h; cases ht

end Stop

/-- Settles O11: each row of the table raises, and what stops a running state has its reason in the table, the refusal of
R34 or the end of the run. -/
theorem exceptionsExactlyAsListed : Obligations.ExceptionsExactlyAsListed := by
  intro s hs
  refine ⟨fun cause info => ⟨fun h => raisedWhen_of_step hs h rfl, step_of_raisedWhen hs⟩,
    ⟨fun h => refusedWhen_of_step hs h rfl, step_of_refusedWhen⟩,
    ⟨fun h => endPc_of_step hs h rfl, step_of_endPc hs⟩, ?_⟩
  rcases step_of_running_cases hs with ⟨t, e, ht⟩ | ⟨-, e⟩ | ⟨cause, info, -, e⟩ | ⟨-, e⟩ <;> refine ⟨_, e, ?_⟩
  · exact .inl ht
  · exact .inr (.inl rfl)
  · exact .inr (.inr (.inl ⟨cause, info, rfl⟩))
  · exact .inr (.inr (.inr rfl))

/-- Settles O12: each way to stop changes the outcome alone, and an exception or refusal takes the pc of the state before. -/
theorem exceptionsArePrecise : Obligations.ExceptionsArePrecise := by
  intro s t hs h ht
  rcases step_of_running_cases hs with ⟨u, e, hu⟩ | ⟨-, e⟩ | ⟨_, _, -, e⟩ | ⟨-, e⟩ <;> cases e.symm.trans h
  · exact absurd hu ht
  · exact ⟨rfl, nofun, nofun⟩
  · refine ⟨rfl, fun _ _ _ h => ?_, nofun⟩
    cases h; rfl
  · refine ⟨rfl, nofun, fun _ _ h => ?_⟩
    cases h; rfl

/-- Settles O10: the end of the run comes before the fetch, and no other phase of a step ends it. -/
theorem runEndsAtEndPc : Obligations.RunEndsAtEndPc :=
  ⟨fun _ => step_of_endPc, fun _ _ => endPc_of_step, fun _ h => step_of_endPc rfl h⟩

/-! ## No step after the run has stopped (R108) -/

theorem step_of_not_running {s : State} (h : s.outcome ≠ .running) : step s = s.afterRun := by
  rcases step_cases s with ⟨-, e⟩ | ⟨hs, -⟩ | ⟨hs, -⟩ | ⟨⟨hs, -⟩, -⟩ | ⟨⟨hs, -⟩, -⟩
  · exact e
  all_goals exact absurd hs h

theorem step_of_ended {s : State} (h : s.outcome = .ended) : step s = .next s := by
  rw [step_of_not_running (by simp [h]), State.afterRun, h]

theorem step_of_faulted {s : State} {cause : Cause} {info pc : Word} (h : s.outcome = .faulted cause info pc) :
    step s = .fault (.exception cause info pc) := by
  rw [step_of_not_running (by simp [h]), State.afterRun, h]

theorem step_of_refused {s : State} {pc : Word} (h : s.outcome = .refused .storeToCode pc) :
    step s = .refused (.storeToCode pc) := by
  rw [step_of_not_running (by simp [h]), State.afterRun, h]

theorem run_succ_of_fault {M : Host.Core} {s : M.State} {r : M.Fault} (h : M.step s = .fault r) (k : Nat) :
    M.run (k + 1) s = .fault r := by
  rw [Host.Core.run, h]

theorem run_succ_of_refused {M : Host.Core} {s : M.State} {r : M.Refusal} (h : M.step s = .refused r) (k : Nat) :
    M.run (k + 1) s = .refused r := by
  rw [Host.Core.run, h]

/-- Settles O13: a run that has ended steps to itself, and the first step of any other stopped run is the last. -/
theorem terminalOutcomesStay : Obligations.TerminalOutcomesStay :=
  ⟨fun _ k h => run_of_step_self (M := Sys2Proof.core) (step_of_ended h) k,
    fun _ _ _ _ k h => run_succ_of_fault (M := Sys2Proof.core) (step_of_faulted h) k,
    fun _ _ k h => run_succ_of_refused (M := Sys2Proof.core) (step_of_refused h) k⟩

/-- Settles O14: an exception is a next state of the instruction and of the step. -/
theorem everyInstructionAnswers : Obligations.EveryInstructionAnswers := by
  refine ⟨fun i s => ?_, fun s h => ?_⟩
  · obtain ⟨t, ht, -⟩ := exec_keeps_env i s
    exact ⟨t, ht⟩
  · rcases h with hs | hs
    · rcases step_of_running_cases hs with ⟨t, e, -⟩ | ⟨-, e⟩ | ⟨_, _, -, e⟩ | ⟨-, e⟩ <;> exact ⟨_, e⟩
    · exact ⟨s, step_of_ended hs⟩

/-! ## Launch, and the placing of a word (70_reset_and_hazards.md R129) -/

/-- Settles O20: the launch conditions are the invariant's, and x0 is set to zero. -/
theorem invAtLaunch : Obligations.InvAtLaunch := by
  intro l hl
  obtain ⟨hpc, -, -, hwf, hmem⟩ := l.ok_iff.1 hl
  exact ⟨hpc, hwf, hmem, Vector.getElem_set_self (by decide)⟩

section Placing

variable (s : State) (w : Word)

@[simp] theorem State.placeWord_pc : (s.placeWord w).pc = s.pc := rfl
@[simp] theorem State.placeWord_outcome : (s.placeWord w).outcome = .running := rfl
@[simp] theorem State.placeWord_mem : (s.placeWord w).mem = (s.poke s.pc 4 w).mem := rfl
@[simp] theorem State.readReg_placeWord (r : Reg) : (s.placeWord w).readReg r = s.readReg r := rfl

theorem State.placeWord_endPc :
    (s.placeWord w).env.endPc = if s.env.endPc = s.pc then s.pc + 4#32 else s.env.endPc := rfl

/-- `MEM` gains the four bytes at the pc. -/
theorem State.inMem_placeWord (a : Nat) :
    (s.placeWord w).env.inMem a = (decide (s.pc.toNat ≤ a ∧ a < s.pc.toNat + 4) || s.env.inMem a) := rfl

/-- So does `CODE`. -/
theorem State.inCode_placeWord (a : Nat) :
    (s.placeWord w).env.inCode a = (decide (s.pc.toNat ≤ a ∧ a < s.pc.toNat + 4) || s.env.inCode a) := rfl

/-- The run does not end at a placed word. -/
theorem State.pc_ne_endPc_placeWord : (s.placeWord w).pc ≠ (s.placeWord w).env.endPc := by
  rw [State.placeWord_pc, State.placeWord_endPc]
  split
  · intro h
    simpa using BitVec.self_eq_add_right.1 h
  · next hne => exact Ne.symm hne

theorem State.wordAtPc_placeWord : wordAtPc (s.placeWord w) = w := by
  have hstores := stores_poke_advance s s.pc (n := 4) le_rfl w
  rw [BitVec.extractLsb'_eq_self] at hstores
  exact hstores.wordAt_eq

/-- At an aligned pc the four bytes of the word do not wrap, so they are those of the region that is put there. -/
theorem State.codeAtPc_placeWord (h : s.pc.toNat % 4 = 0) : codeAtPc (s.placeWord w) := by
  intro a ha
  rw [State.placeWord_pc, accessAddresses_of_aligned (by decide) h] at ha
  obtain ⟨k, hk, rfl⟩ := List.mem_map.1 ha
  simpa [State.inCode_placeWord] using .inl (List.mem_range.1 hk)

theorem State.executes_placeWord {i : Instr} (h : s.pc.toNat % 4 = 0) (hok : i.wellFormed = true) :
    Executes (s.placeWord (encode i)) i :=
  ⟨⟨s.placeWord_outcome _, s.pc_ne_endPc_placeWord _, s.codeAtPc_placeWord _ h⟩,
    (congrArg decodeWord (s.wordAtPc_placeWord _)).trans (decodeWord_encode hok)⟩

/-- All 32 bits of a word are placed. -/
theorem State.withFetchWord_toNat : s.withFetchWord 32 w.toNat = s.placeWord w := by
  rw [State.withFetchWord, Nat.mod_eq_of_lt w.isLt, BitVec.ofNat_toNat, BitVec.setWidth_eq]

end Placing

/-- Settles O15: the placed word is the one that the next step fetches and decodes, and nothing else is put into memory. -/
theorem placedWordRuns : Obligations.PlacedWordRuns := by
  intro s i haligned hok t ht
  rw [State.withFetchWord_toNat] at ht
  subst ht
  have hexecutes := s.executes_placeWord haligned hok
  refine ⟨hexecutes, step_of_executes hexecutes, s.readReg_placeWord _, s.placeWord_pc _, fun a ha => ?bytes,
    fun a ha => ?region⟩
  case bytes => rw [State.placeWord_mem, s.read_poke_of_notMem s.pc 4 _ a ha]
  case region => rw [State.inMem_placeWord, ha, Bool.or_true]

end Sys2Proof.Machine
